-- ==== Sys2Proof/Word.lean ====
section
/-! DEFINITION. The word types of the PBC and their plainest arithmetic (00_scope.md R6, R7). -/
namespace Sys2Proof

/-- A host register or a bus DATA field: 32 bits (00_scope.md R5). -/
abbrev Word := BitVec 32

/-- BUF_LEN, BUF_PTR and PIX_SEL: 16 bits (10_state.md R19, R20, R22). -/
abbrev Half := BitVec 16

/-- A packed byte (20_memory.md R34). -/
abbrev Byte := BitVec 8

/-- `sext_32`: a 32-bit vector as a two's-complement integer (00_scope.md R7). -/
abbrev sext32 (w : Word) : Int := w.toInt

/-- `zext_32` (00_scope.md R7). -/
abbrev zext32 {n : Nat} (v : BitVec n) : Word := v.setWidth 32

end Sys2Proof
end

