-- ==== Sys2Proof/Config.lean ====
section
/-! DEFINITION. The implementation parameters of 00_scope.md R5 and the free values of
93_implementation_defined.md. An opaque constant has no body: no proof can learn a value of it. -/
namespace Sys2Proof.Config

/-- PAGE_ROWS: rows per page, bits per packed byte (00_scope.md R5). -/
abbrev pageRows : Nat := 8

/-- MAX_W: the largest grid width (00_scope.md R5). -/
abbrev maxW : Nat := 128

/-- MAX_H: the largest grid height (00_scope.md R5). -/
abbrev maxH : Nat := 64

/-- MAX_PAGES = MAX_H / PAGE_ROWS (00_scope.md R5). -/
abbrev maxPages : Nat := maxH / pageRows

/-- BUF_CAP = MAX_PAGES * MAX_W = 1024 (00_scope.md R5). -/
abbrev bufCap : Nat := maxPages * maxW

/-- The grid width after reset (00_scope.md R5, 10_state.md R31). -/
abbrev resetW : Nat := 128

/-- The grid height after reset (00_scope.md R5, 10_state.md R31). -/
abbrev resetH : Nat := 64

/-- LINE_BYTES: bytes per line of the host's export text (00_scope.md R5). -/
abbrev lineBytes : Nat := 12

/-- The width in bits of an admitted host access (20_memory.md R35). -/
abbrev accessBits : Nat := 32

/-- INIT_BUF of one run, a byte for each index (70_reset_and_hazards.md R116, D26).
A FREE VALUE: first argument the run's number, second the index (log entry 1, safe). -/
opaque initBuf : Nat → Nat → Byte

/-- What a read in the busy window returns (40_host_bus.md R58).
A FREE VALUE: its argument numbers the draw (log entry 2, safe). -/
opaque busyRead : Nat → Word

/-- T_CMD of one command, in host steps (70_reset_and_hazards.md R121).
A FREE VALUE: its argument numbers the draw (log entry 3). -/
opaque latency : Nat → Nat

/-- What the user answers when the host offers a proceed or cancel choice: true is proceed (47_host_text_formats.md R100).
A FREE VALUE: its argument numbers the question (log entry 17, safe). -/
opaque userAnswer : Nat → Bool

/-- PBC_BASE: where the platform maps REG (20_memory.md R40).
A FREE VALUE of the platform (log entry 15, safe); the block sees only offsets. -/
opaque pbcBase : Nat

/-- The platform address of the register at a byte offset (20_memory.md R40, 60_exceptions.md R112). -/
def regAddress (offset : Nat) : Nat := pbcBase + offset

end Sys2Proof.Config
end

