-- ==== Sys2Proof/Syntax.lean ====
section
/-! DEFINITION. The instructions of the PBC: one constructor for each row of spec/opcode_table.json. -/
namespace Sys2Proof

/-- The five commands (CMD32 rows, 30_encoding.md R50), each the completion step of its command
word, and the 22 bus transactions (BUS9 rows, 40_host_bus.md R82). -/
inductive Instr where
  /-- ENCODE (41_codec.md R83). -/
  | encode
  /-- DECODE (41_codec.md R84); `force` is the F bit: false 0x02, true 0x12. -/
  | decode (force : Bool)
  /-- RESIZE (42_grid.md R90). -/
  | resize
  /-- TOGGLE (42_grid.md R92). -/
  | toggle
  /-- INVERT (42_grid.md R93). -/
  | invert
  /-- RD CMD (40_host_bus.md R61). -/
  | rdCmd
  /-- WR CMD (40_host_bus.md R59). -/
  | wrCmd (data : Word)
  /-- RD STATUS (40_host_bus.md R63). -/
  | rdStatus
  /-- WR STATUS (40_host_bus.md R62). -/
  | wrStatus (data : Word)
  /-- RD ARG_A (40_host_bus.md R65). -/
  | rdArgA
  /-- WR ARG_A (40_host_bus.md R64). -/
  | wrArgA (data : Word)
  /-- RD ARG_B (40_host_bus.md R67). -/
  | rdArgB
  /-- WR ARG_B (40_host_bus.md R66). -/
  | wrArgB (data : Word)
  /-- RD GRID_DIM (40_host_bus.md R68). -/
  | rdGridDim
  /-- WR GRID_DIM (40_host_bus.md R69). -/
  | wrGridDim (data : Word)
  /-- RD ADJ_H (40_host_bus.md R70). -/
  | rdAdjH
  /-- WR ADJ_H (40_host_bus.md R71). -/
  | wrAdjH (data : Word)
  /-- RD BUF_LEN (40_host_bus.md R73). -/
  | rdBufLen
  /-- WR BUF_LEN (40_host_bus.md R72). -/
  | wrBufLen (data : Word)
  /-- RD BUF_PTR (40_host_bus.md R77). -/
  | rdBufPtr
  /-- WR BUF_PTR (40_host_bus.md R74). -/
  | wrBufPtr (data : Word)
  /-- RD BUF_DATA (40_host_bus.md R76). -/
  | rdBufData
  /-- WR BUF_DATA (40_host_bus.md R75). -/
  | wrBufData (data : Word)
  /-- RD PIX_SEL (40_host_bus.md R80). -/
  | rdPixSel
  /-- WR PIX_SEL (40_host_bus.md R78). -/
  | wrPixSel (data : Word)
  /-- RD PIX_VAL (40_host_bus.md R79). -/
  | rdPixVal
  /-- WR PIX_VAL (40_host_bus.md R81). -/
  | wrPixVal (data : Word)
deriving DecidableEq, Repr

end Sys2Proof
end

