-- ==== Sys2Proof/Decode.lean ====
section
/-! DEFINITION. The two encoded objects of 30_encoding.md R47, their decoder (total, rejecting by
name) and their encoder. The hardware stores no instruction bytes and exposes no byte order
(20_memory.md R36), so an encoded object is its fields, not a list of bytes (log entry 10). -/
namespace Sys2Proof

/-- An encoded object (30_encoding.md R47). -/
inductive Encoded where
  /-- Format BUS9: a 9-bit selector with a 32-bit data field (30_encoding.md R48). -/
  | bus (sel : BitVec 9) (data : Word)
  /-- Format CMD32: a command word (30_encoding.md R49). -/
  | cmd (w : Word)
deriving DecidableEq, Repr

/-- Why an encoded object is no instruction. -/
inductive DecodeError where
  /-- The offset is not a multiple of 4 (20_memory.md R35). -/
  | misaligned
  /-- The offset is none of the eleven mapped ones (20_memory.md R35). -/
  | unmapped
  /-- RSV is not 0 (30_encoding.md R52). -/
  | reservedBits
  /-- OP is none of 1 to 5 (30_encoding.md R52). -/
  | illegalOp
  /-- F = 1 with an OP other than DECODE (30_encoding.md R52). -/
  | forceWithoutDecode
deriving DecidableEq, Repr

/-- The eleven host registers (10_state.md R11). -/
inductive BusReg where
  | cmd | status | argA | argB | gridDim | adjH | bufLen | bufPtr | bufData | pixSel | pixVal
deriving DecidableEq, Repr

/-- The byte offset of a register in REG (10_state.md R11). -/
def BusReg.offset : BusReg → Nat
  | .cmd => 0x00
  | .status => 0x04
  | .argA => 0x08
  | .argB => 0x0C
  | .gridDim => 0x10
  | .adjH => 0x14
  | .bufLen => 0x18
  | .bufPtr => 0x1C
  | .bufData => 0x20
  | .pixSel => 0x24
  | .pixVal => 0x28

/-- The eleven registers in the order of the map (10_state.md R11). -/
def BusReg.all : List BusReg :=
  [.cmd, .status, .argA, .argB, .gridDim, .adjH, .bufLen, .bufPtr, .bufData, .pixSel, .pixVal]

/-- The selector of an access: W*256 + o (30_encoding.md R48). -/
def selector (write : Bool) (r : BusReg) : BitVec 9 :=
  BitVec.ofNat 9 ((if write then 256 else 0) + r.offset)

/-- The W field of a selector (30_encoding.md R48). -/
def selIsWrite (sel : BitVec 9) : Bool := sel.getLsbD 8

/-- The OFF field of a selector (30_encoding.md R48). -/
def selOffset (sel : BitVec 9) : Nat := (sel.setWidth 8).toNat

/-- The 22 admitted selectors (40_host_bus.md R82); every other one is refused by name
(20_memory.md R35). -/
def decodeBus (sel : BitVec 9) (data : Word) : Except DecodeError Instr :=
  match sel.toNat with
  | 0x000 => .ok .rdCmd
  | 0x004 => .ok .rdStatus
  | 0x008 => .ok .rdArgA
  | 0x00C => .ok .rdArgB
  | 0x010 => .ok .rdGridDim
  | 0x014 => .ok .rdAdjH
  | 0x018 => .ok .rdBufLen
  | 0x01C => .ok .rdBufPtr
  | 0x020 => .ok .rdBufData
  | 0x024 => .ok .rdPixSel
  | 0x028 => .ok .rdPixVal
  | 0x100 => .ok (.wrCmd data)
  | 0x104 => .ok (.wrStatus data)
  | 0x108 => .ok (.wrArgA data)
  | 0x10C => .ok (.wrArgB data)
  | 0x110 => .ok (.wrGridDim data)
  | 0x114 => .ok (.wrAdjH data)
  | 0x118 => .ok (.wrBufLen data)
  | 0x11C => .ok (.wrBufPtr data)
  | 0x120 => .ok (.wrBufData data)
  | 0x124 => .ok (.wrPixSel data)
  | 0x128 => .ok (.wrPixVal data)
  | n => if n % 4 = 0 then .error .unmapped else .error .misaligned

/-- The OP field of a command word (30_encoding.md R49). -/
def cmdOp (w : Word) : Nat := (w.setWidth 4).toNat

/-- The F field of a command word (30_encoding.md R49). -/
def cmdForce (w : Word) : Bool := w.getLsbD 4

/-- The RSV field of a command word (30_encoding.md R49). -/
def cmdReserved (w : Word) : Nat := (w >>> 5).toNat

/-- The command a word stands for; a word that 30_encoding.md R52 calls illegal is rejected by name. -/
def decodeCmd (w : Word) : Except DecodeError Instr :=
  if cmdReserved w ≠ 0 then .error .reservedBits
  else
    match cmdOp w, cmdForce w with
    | 1, false => .ok .encode
    | 2, f => .ok (.decode f)
    | 3, false => .ok .resize
    | 4, false => .ok .toggle
    | 5, false => .ok .invert
    | 1, true => .error .forceWithoutDecode
    | 3, true => .error .forceWithoutDecode
    | 4, true => .error .forceWithoutDecode
    | 5, true => .error .forceWithoutDecode
    | _, _ => .error .illegalOp

/-- Legality as 30_encoding.md R52 words it: OP in 1 to 5, RSV = 0, and F = 0 or OP = 2. -/
def legalCmd (w : Word) : Bool :=
  (cmdOp w == 1 || cmdOp w == 2 || cmdOp w == 3 || cmdOp w == 4 || cmdOp w == 5)
    && cmdReserved w == 0 && (!cmdForce w || cmdOp w == 2)

/-- The instruction of an encoded object. -/
def decode : Encoded → Except DecodeError Instr
  | .bus sel data => decodeBus sel data
  | .cmd w => decodeCmd w

/-- The encoded object of an instruction (30_encoding.md R48 to R50). A read carries DATA 0: the
block drives that field (R48, R57). -/
def encode : Instr → Encoded
  | .encode => .cmd 0x00000001
  | .decode force => .cmd (if force then 0x00000012 else 0x00000002)
  | .resize => .cmd 0x00000003
  | .toggle => .cmd 0x00000004
  | .invert => .cmd 0x00000005
  | .rdCmd => .bus (selector false .cmd) 0
  | .wrCmd data => .bus (selector true .cmd) data
  | .rdStatus => .bus (selector false .status) 0
  | .wrStatus data => .bus (selector true .status) data
  | .rdArgA => .bus (selector false .argA) 0
  | .wrArgA data => .bus (selector true .argA) data
  | .rdArgB => .bus (selector false .argB) 0
  | .wrArgB data => .bus (selector true .argB) data
  | .rdGridDim => .bus (selector false .gridDim) 0
  | .wrGridDim data => .bus (selector true .gridDim) data
  | .rdAdjH => .bus (selector false .adjH) 0
  | .wrAdjH data => .bus (selector true .adjH) data
  | .rdBufLen => .bus (selector false .bufLen) 0
  | .wrBufLen data => .bus (selector true .bufLen) data
  | .rdBufPtr => .bus (selector false .bufPtr) 0
  | .wrBufPtr data => .bus (selector true .bufPtr) data
  | .rdBufData => .bus (selector false .bufData) 0
  | .wrBufData data => .bus (selector true .bufData) data
  | .rdPixSel => .bus (selector false .pixSel) 0
  | .wrPixSel data => .bus (selector true .pixSel) data
  | .rdPixVal => .bus (selector false .pixVal) 0
  | .wrPixVal data => .bus (selector true .pixVal) data

/-- The encoded object that the table's numbering gives (log entry 10): up to 16 bits a BUS9
selector with DATA 0, up to 32 bits a CMD32 word, above that a BUS9 selector in bits 15:0 with its
DATA in bits 47:16. A selector needs its bits above 8 clear. -/
def encodedOfTableWord (nbits w : Nat) : Option Encoded :=
  if nbits ≤ 16 then
    if w < 512 then some (.bus (BitVec.ofNat 9 w) 0) else none
  else if nbits ≤ 32 then
    if w < 2 ^ 32 then some (.cmd (BitVec.ofNat 32 w)) else none
  else
    if w % 65536 < 512 ∧ w < 2 ^ 48 then
      some (.bus (BitVec.ofNat 9 (w % 65536)) (BitVec.ofNat 32 (w / 65536)))
    else none

/-- The instruction the decoder reads from a word numbered as spec/opcode_table.json numbers it. -/
def decodeTableWord (nbits w : Nat) : Option Instr :=
  match encodedOfTableWord nbits w with
  | none => none
  | some e =>
    match decode e with
    | .ok i => some i
    | .error _ => none

end Sys2Proof
end

