-- ==== Sys2Proof/Machine/HostLine.lean ====
section
/-! DEFINITION. The lines of a host program (30_encoding.md R55), WR and RD in their encoded form (R57), and the
lines of the host's dialogue and export (47_host_text_formats.md R95, R98, R100), which that notation lacks (log entry 16). -/
namespace Sys2Proof.Machine

/-- What the host shows the user (47_host_text_formats.md R98, R100, 60_exceptions.md R115). -/
inductive Notice where
  /-- HADJ: the height was adjusted to ADJ_H. -/
  | adjustedHeight (h : Word)
  /-- VALERR: a ValidationError message. -/
  | validationError
  /-- LENMM: the length differs from the expected one. -/
  | lengthMismatch
  /-- SHORT: the buffer was short. -/
  | shortBuffer
  /-- MalformedInputError: the text holds no token; the block has no bit for it. -/
  | malformedInput
deriving DecidableEq, Repr

/-- One line of a host program (30_encoding.md R55). Variables and labels are numbered. -/
inductive HostLine where
  /-- A WR or RD line: one bus access of `width` bits (32 where the spec admits it, 20_memory.md R35)
  with its BUS9 selector and data; `bind` is the variable an RD line binds. -/
  | bus (width : Nat) (sel : BitVec 9) (data : Word) (bind : Option Nat)
  /-- `<label>:` -/
  | label (l : Nat)
  /-- `BIT1 <var>, <n>, <label>`; R55 bounds `n` nowhere (log entry 18). -/
  | bit1 (var n l : Nat)
  /-- `GOTO <label>` -/
  | goto (l : Nat)
  /-- `CHECK <var> == <value>` -/
  | check (var : Nat) (value : Word)
  /-- Show the user one message (47_host_text_formats.md R98). -/
  | tell (n : Notice)
  /-- Show the user what the STATUS and the ADJ_H in two variables call for (47_host_text_formats.md R100, R101). -/
  | report (status adjH : Nat)
  /-- Offer the user a proceed or cancel choice, and go on at the label on proceed (47_host_text_formats.md R100). -/
  | ask (l : Nat)
  /-- Read BUF_DATA as often as the variable `count` says, into the variables from `first` on, one bus
  access at each step (47_host_text_formats.md R95). -/
  | readBytes (count first : Nat)
  /-- Format that many bytes, held by the variables from `first` on, as the export text (47_host_text_formats.md R95, R96). -/
  | output (count first : Nat)
deriving DecidableEq, Repr

/-- The line `WR <REG>, <value>`: selector 256 + offset, value mod 2^32 (30_encoding.md R57). -/
def HostLine.wr (r : BusReg) (value : Int) : HostLine :=
  .bus Config.accessBits (selector true r) (BitVec.ofInt 32 value) none

/-- The line `RD <REG> -> <var>`, or `RD <REG>` where nothing is bound (30_encoding.md R55, R57). -/
def HostLine.rd (r : BusReg) (bind : Option Nat) : HostLine :=
  .bus Config.accessBits (selector false r) 0 bind

/-- The label a line declares. -/
def HostLine.declares : HostLine → Option Nat
  | .label l => some l
  | _ => none

/-- The label a line jumps to. -/
def HostLine.target : HostLine → Option Nat
  | .bit1 _ _ l => some l
  | .goto l => some l
  | .ask l => some l
  | _ => none

end Sys2Proof.Machine
end

