-- ==== Sys2Proof/Machine/State.lean ====
section
/-! DEFINITION. The state of the PBC (10_state.md R10), why a step can stop, and the state after reset (R31). -/
namespace Sys2Proof.Machine

/-- The STATUS bits (10_state.md R13); bits 31:8 are reserved and read 0 (R24). -/
structure Status where
  /-- Bit 0: a command is pending. -/
  busy : Bool
  /-- Bit 1: the last command completed and made its state change. -/
  ok : Bool
  /-- Bit 2: ValidationError. -/
  valerr : Bool
  /-- Bit 3: LengthMismatchWarning. -/
  lenmm : Bool
  /-- Bit 4: ShortBufferWarning. -/
  short : Bool
  /-- Bit 5: the height was normalized to a different value. -/
  hadj : Bool
  /-- Bit 6: the last command word was illegal. -/
  illcmd : Bool
  /-- Bit 7: a host write arrived while BUSY = 1; sticky, write 1 to clear. -/
  busyerr : Bool
deriving DecidableEq, Repr

/-- The conditions of 60_exceptions.md R102 that the block records. -/
inductive Condition where
  | illcmd | valerr | lenmm | short | hadj | busyerr
deriving DecidableEq, Repr

/-- The pixel storage: 64 rows of 128 one-bit cells (10_state.md R27). Bit c of row r is GRID[r][c]. -/
abbrev Grid := Vector (BitVec Config.maxW) Config.maxH

/-- The bytes of BUF written since reset (10_state.md R29), as pairs of index and byte in one canonical
form: indices strictly rising and below 1024. An unlisted index holds no known byte: it reads as
the free value INIT_BUF (log entry 1), so no entry can equal what an unlisted index reads as. -/
abbrev Mem := List Host.Cell

/-- Why the machine stops with a fault. Each is the host program's own end, none the block's
(60_exceptions.md R108: the block never halts); each is safe (log entry 14). -/
inductive Fault where
  /-- Raised by a host line CHECK whose variable differs from its value (30_encoding.md R55). Safe. -/
  | hostCheckFailed (var : Nat)
  /-- Raised by a host line BIT1, CHECK, a report, a reading line or an output on a variable that no RD has bound. Safe. -/
  | hostUnboundVariable (var : Nat)
  /-- Raised by a host line BIT1, GOTO or a question whose label the program does not declare. Safe. -/
  | hostUnknownLabel (label : Nat)
deriving DecidableEq, Repr

/-- Why a step has no meaning. -/
inductive Refusal where
  /-- Raised by exec for an instruction without a meaning yet. Safe. -/
  | notModelled (mnemonic : String)
  /-- Raised by a host access that is not a full 32-bit one (20_memory.md R35). Safe. -/
  | accessNotFullWord
  /-- Raised by a host access at an offset that is no multiple of 4 (20_memory.md R35). Safe. -/
  | accessMisaligned
  /-- Raised by a host access at an offset that no register has (20_memory.md R35). Safe. -/
  | accessUnmapped
  /-- Raised at a line of a host bound to its duties that would break one: a model of block and host gives it no
  such move (60_exceptions.md R115, log entry 13). Safe. -/
  | hostDutyBroken
deriving DecidableEq, Repr

/-- What a forced decode would be of: the width and height requested, and the declared length (41_codec.md R84). -/
structure Choice where
  /-- ARG_A. -/
  w : Word
  /-- ARG_B. -/
  h : Word
  /-- BUF_LEN. -/
  len : Half
deriving DecidableEq, Repr

/-- The host's dealings with its user and how far it has met its duties (47_host_text_formats.md R95 to R101,
60_exceptions.md R115): the host's own, never the block's. -/
structure Session where
  /-- The host is held to its duties: the model of block and host that R115 speaks of (log entry 13). -/
  bound : Bool
  /-- A command was issued, and no STATUS read has shown BUSY = 0 since (70_reset_and_hazards.md R119). -/
  awaiting : Bool
  /-- The host has seen a DECODE refused for its length. -/
  refused : Bool
  /-- What the user has said proceed to, as long as no command was issued and the buffer not loaded since. -/
  consent : Option Choice
  /-- The notices of the last command have been shown. -/
  reported : Bool
  /-- The user's next answers, where the environment fixes them (log entry 17). -/
  answers : List Bool
  /-- How many questions were asked; it selects a free answer. -/
  asked : Nat
  /-- How many bytes the reading line has read so far. -/
  loop : Nat
  /-- What the user was shown, oldest first. -/
  shown : List Notice
  /-- The export texts given out, oldest first. -/
  exports : List (List Char)
deriving DecidableEq, Repr

/-- The state: the block's own, complete by 10_state.md R10, then the host's and the environment's. -/
structure State where
  /-- ARG_A (10_state.md R16). -/
  argA : Word
  /-- ARG_B (10_state.md R16). -/
  argB : Word
  /-- STATUS (10_state.md R13), BUSY among its bits (R25). -/
  status : Status
  /-- GRID_W (10_state.md R27). -/
  gridW : Nat
  /-- GRID_H (10_state.md R27). -/
  gridH : Nat
  /-- ADJ_H (10_state.md R18). -/
  adjH : Word
  /-- BUF_LEN (10_state.md R19). -/
  bufLen : Half
  /-- BUF_PTR (10_state.md R20). -/
  bufPtr : Half
  /-- PIX_SEL (10_state.md R22). -/
  pixSel : Half
  /-- GRID (10_state.md R27). -/
  grid : Grid
  /-- BUF (10_state.md R29). -/
  buf : Mem
  /-- PEND (10_state.md R25). -/
  pend : Word
  /-- DATA of the last bus read (30_encoding.md R48): the model's own. -/
  rdata : Word
  /-- Which run this is, counted by resets; it selects INIT_BUF (70_reset_and_hazards.md R116): the model's own. -/
  run : Nat
  /-- How many free values have been drawn (40_host_bus.md R58): the model's own. -/
  draws : Nat
  /-- Host steps left before the pending command completes (70_reset_and_hazards.md R121): the model's own. -/
  delay : Nat
  /-- T_CMD of the next commands, where the environment fixes it (log entry 3): the model's own. -/
  latencies : List Nat
  /-- The reset input at the next steps; past its end it is not asserted (log entry 6): the model's own. -/
  resets : List Bool
  /-- The host's program (30_encoding.md R55). -/
  prog : List HostLine
  /-- The line the host performs next. -/
  pos : Nat
  /-- The host's variables, in rising order of their number. -/
  vars : List (Nat × Word)
  /-- The host's dealings with its user (60_exceptions.md R115). -/
  session : Session
deriving DecidableEq, Repr

/-- The state after reset: every spec field as 10_state.md R31 says; the model's own fields as log
entry 8 says, with no program placed (log entry 9). -/
def State.reset : State where
  argA := 0
  argB := 0
  status := ⟨false, false, false, false, false, false, false, false⟩
  gridW := Config.resetW
  gridH := Config.resetH
  adjH := 0
  bufLen := 0
  bufPtr := 0
  pixSel := 0
  grid := Vector.replicate Config.maxH 0
  buf := []
  pend := 0
  rdata := 0
  run := 0
  draws := 0
  delay := 0
  latencies := []
  resets := []
  prog := []
  pos := 0
  vars := []
  session := ⟨false, false, false, none, false, [], 0, 0, [], []⟩

end Sys2Proof.Machine
end

