-- ==== Sys2Proof/Machine/Flags.lean ====
section
/-! DEFINITION. The STATUS bits: how they are read, and each operation that changes them (10_state.md R13 to R15, R30). -/
namespace Sys2Proof.Machine

/-- STATUS as the host reads it (40_host_bus.md R63). -/
def Status.word (st : Status) : Word :=
  zext32 (BitVec.ofBool st.busyerr ++ BitVec.ofBool st.illcmd ++ BitVec.ofBool st.hadj
    ++ BitVec.ofBool st.short ++ BitVec.ofBool st.lenmm ++ BitVec.ofBool st.valerr
    ++ BitVec.ofBool st.ok ++ BitVec.ofBool st.busy)

/-- The STATUS bit number of a condition, its cause code (60_exceptions.md R102). -/
def Condition.code : Condition → Nat
  | .valerr => 2
  | .lenmm => 3
  | .short => 4
  | .hadj => 5
  | .illcmd => 6
  | .busyerr => 7

/-- Set the STATUS bit of a condition (60_exceptions.md R102). -/
def Status.record (st : Status) : Condition → Status
  | .valerr => { st with valerr := true }
  | .lenmm => { st with lenmm := true }
  | .short => { st with short := true }
  | .hadj => { st with hadj := true }
  | .illcmd => { st with illcmd := true }
  | .busyerr => { st with busyerr := true }

/-- STATUS at the issue of a command: bits 6:1 clear, BUSY set, BUSYERR kept (10_state.md R14, R15). -/
def Status.issued (st : Status) : Status :=
  ⟨true, false, false, false, false, false, false, st.busyerr⟩

/-- STATUS as a command ends: BUSY clear (40_host_bus.md R60). -/
def Status.ended (st : Status) : Status := { st with busy := false }

/-- STATUS as a command ends with OK (10_state.md R13, 40_host_bus.md R60). -/
def Status.succeeded (st : Status) : Status := { st with ok := true, busy := false }

/-- STATUS after a host write to it while BUSY = 0: data bit 7 clears BUSYERR, every other bit is
ignored (40_host_bus.md R62). -/
def Status.hostWritten (st : Status) (data : Word) : Status :=
  if data.getLsbD 7 then { st with busyerr := false } else st

/-- Bits 6:1 are all 0: so they stand between issue and completion (10_state.md R14). -/
def Status.noResult (st : Status) : Bool :=
  !(st.ok || st.valerr || st.lenmm || st.short || st.hadj || st.illcmd)

/-- Bits 6:1 are one of the combinations a completion can leave (10_state.md R14), in its order. -/
def Status.completedResult (st : Status) : Bool :=
  match st.ok, st.valerr, st.lenmm, st.short, st.hadj, st.illcmd with
  | true, false, false, false, false, false => true
  | true, false, false, false, true, false => true
  | true, false, true, false, false, false => true
  | true, false, true, true, false, false => true
  | true, false, true, false, true, false => true
  | true, false, true, true, true, false => true
  | false, true, false, false, _, false => true
  | false, false, true, false, _, false => true
  | false, false, false, false, false, true => true
  | _, _, _, _, _, _ => false

end Sys2Proof.Machine
end

