-- ==== Sys2Proof/Machine/Ops.lean ====
section
/-! DEFINITION. The named operations: BUF bytes, GRID pixels, raising and warning, the end of a command, host
reads and writes with the busy window, issue, and reset. -/
namespace Sys2Proof.Machine

/-- The value listed under a key. -/
def assocGet {α : Type} (k : Nat) : List (Nat × α) → Option α
  | [] => none
  | (a, v) :: rest => if a = k then some v else assocGet k rest

/-- Put a value under a key, in rising order of keys. -/
def assocSet {α : Type} (k : Nat) (v : α) : List (Nat × α) → List (Nat × α)
  | [] => [(k, v)]
  | (a, w) :: rest =>
    if k < a then (k, v) :: (a, w) :: rest
    else if k = a then (k, v) :: rest
    else (a, w) :: assocSet k v rest

/-- The keys are strictly rising, each above `lo` where one is given. -/
def assocRising {α : Type} (lo : Option Nat) : List (Nat × α) → Bool
  | [] => true
  | (a, _) :: rest =>
    (match lo with
      | none => true
      | some l => decide (l < a)) && assocRising (some a) rest

/-- The canonical form of BUF: indices strictly rising, each below 1024 (10_state.md R29). -/
def Mem.wf (m : Mem) : Bool :=
  assocRising none m && m.all (fun c => decide (c.1 < Config.bufCap))

/-- `MemRead(i, 1)`: the byte at an index of BUF (00_scope.md R8). A byte not written since reset
reads as INIT_BUF (40_host_bus.md R76); BUF has no index at or above 1024, where the answer is 0 (log entry 12). -/
def State.memRead (s : State) (i : Nat) : Byte :=
  if i < Config.bufCap then (assocGet i s.buf).getD (Config.initBuf s.run i) else 0

/-- `MemWrite(i, 1, v)` (00_scope.md R8); an index at or above 1024 stores nothing (40_host_bus.md R75, log entry 12). -/
def State.memWrite (s : State) (i : Nat) (v : Byte) : State :=
  if i < Config.bufCap then { s with buf := assocSet i v s.buf } else s

/-- A list of byte writes, in order. -/
def State.memWriteAll (s : State) : List Host.Cell → State
  | [] => s
  | c :: rest => (s.memWrite c.1 c.2).memWriteAll rest

/-- The row whose bit c, for each c below `n`, is `f c`. -/
def rowBits (f : Nat → Bool) : Nat → Nat
  | 0 => 0
  | n + 1 => rowBits f n + (if f n then 2 ^ n else 0)

/-- The pixel storage whose cell (r, c) is `f r c`: a simultaneous assignment of every cell (00_scope.md R8). -/
def Grid.ofFn (f : Nat → Nat → Bool) : Grid :=
  Vector.ofFn fun r => BitVec.ofNat Config.maxW (rowBits (f r.val) Config.maxW)

/-- `GRID[r][c]`; no cell stands outside the 64 by 128 storage, where the answer is off (log entry 12). -/
def Grid.px (g : Grid) (r c : Nat) : Bool :=
  match g[r]? with
  | some row => row.getLsbD c
  | none => false

/-- `GRID[r][c]` of the state (00_scope.md R8). -/
def State.pix (s : State) (r c : Nat) : Bool := Grid.px s.grid r c

/-- Whether (r, c) lies inside the current grid (10_state.md R27). -/
def State.inGrid (s : State) (r c : Nat) : Bool := decide (r < s.gridH) && decide (c < s.gridW)

/-- `GRID <- G'; GRID_W <- W; GRID_H <- H` (41_codec.md R84, 42_grid.md R90). -/
def State.replaceGrid (s : State) (g : Grid) (w h : Nat) : State :=
  { s with grid := g, gridW := w, gridH := h }

/-- `warn E`: set the condition's STATUS bit and go on (00_scope.md R8). -/
def State.warn (s : State) (e : Condition) : State := { s with status := s.status.record e }

/-- The end of a command: BUSY <- 0 (40_host_bus.md R60). -/
def State.endCommand (s : State) : State := { s with status := s.status.ended }

/-- `raise E`: set the condition's STATUS bit and end the command, with no further change (00_scope.md
R8). The block has no trap entry: this is all that a condition does (60_exceptions.md R107). -/
def State.raise (s : State) (e : Condition) : State := (s.warn e).endCommand

/-- The end of a command that made its state change: `STATUS.OK <- 1`, then BUSY <- 0 (40_host_bus.md R60). -/
def State.succeed (s : State) : State := { s with status := s.status.succeeded }

/-- A host write that arrives while BUSY = 1 does nothing but set BUSYERR (40_host_bus.md R58). -/
def State.dropWrite (s : State) : State := s.warn .busyerr

/-- A host write: dropped while BUSY = 1, else its own effect (40_host_bus.md R58). -/
def State.hostWrite (s : State) (effect : State) : State :=
  if s.status.busy then s.dropWrite else effect

/-- The block returns DATA (30_encoding.md R48). -/
def State.answer (s : State) (v : Word) : State := { s with rdata := v }

/-- The block returns an unspecified value, a free draw of this read alone (40_host_bus.md R58). -/
def State.answerDraw (s : State) : State :=
  { s with rdata := Config.busyRead s.draws, draws := s.draws + 1 }

/-- A read of one of the six registers that are unspecified while BUSY = 1 (40_host_bus.md R58). -/
def State.guardedRead (s : State) (idle : State) : State :=
  if s.status.busy then s.answerDraw else idle

/-- BUF_PTR <- (P + 1) mod 65536 (10_state.md R20). -/
def State.advancePtr (s : State) : State := { s with bufPtr := s.bufPtr + 1 }

/-- T_CMD of the command being issued: the one the environment has fixed, else a free draw
(70_reset_and_hazards.md R121, log entry 3). -/
def State.startDelay (s : State) : State :=
  match s.latencies with
  | n :: rest => { s with delay := n, latencies := rest }
  | [] => { s with delay := Config.latency s.draws, draws := s.draws + 1 }

/-- The issue of a command: PEND <- data, STATUS[6:1] <- 0, BUSY <- 1 (40_host_bus.md R59). -/
def State.issue (s : State) (data : Word) : State :=
  { s.startDelay with pend := data, status := s.status.issued }

/-- The reset event (70_reset_and_hazards.md R116): every piece of the block's state takes its value
of 10_state.md R31, the pending command is discarded, and BUF takes the INIT_BUF of a new run.
The host and its schedule are no part of the block and stay (log entry 6). -/
def State.applyReset (s : State) : State :=
  { State.reset with
    rdata := s.rdata
    run := s.run + 1
    draws := s.draws
    delay := s.delay
    latencies := s.latencies
    resets := s.resets.tail
    prog := s.prog
    pos := s.pos
    vars := s.vars
    session := s.session }

end Sys2Proof.Machine
end

