-- ==== Sys2Proof/Machine/Operands.lean ====
section
/-! DEFINITION. Operands of commands and register accesses: the values registers read as, NormH, Valid and
CheckDims, the buffer layout and the bytes and cells the codec moves. -/
namespace Sys2Proof.Machine

/-- NormH: round a height down to a multiple of 8, a result of 0 from rounding clamped to 8
(42_grid.md R88). `/` and `%` by 8 are the floor forms of 00_scope.md R7. -/
def normH (h : Int) : Int :=
  if h % Config.pageRows = 0 then h
  else if Config.pageRows * (h / Config.pageRows) = 0 then Config.pageRows
  else Config.pageRows * (h / Config.pageRows)

/-- Valid: the bounds of a width and a normalized height (42_grid.md R89). -/
def validDims (w h : Int) : Bool :=
  decide (1 ≤ w) && decide (w ≤ Config.maxW) && decide (1 ≤ h) && decide (h ≤ Config.maxH)

/-- CheckDims (42_grid.md R91): ADJ_H and HADJ report the normalization, then VALERR ends the
command or the accepted width and height are given back. -/
def State.checkDims (s : State) (wreq hreq : Int) : State × Option (Nat × Nat) :=
  let hn := normH hreq
  let reported := { s with adjH := BitVec.ofInt 32 hn }
  let noticed := if hn = hreq then reported else reported.warn .hadj
  if validDims wreq hn then (noticed, some (wreq.toNat, hn.toNat))
  else (noticed.raise .valerr, none)

/-- ARG_A as a command reads it (30_encoding.md R51). -/
def State.operandA (s : State) : Int := sext32 s.argA

/-- ARG_B as a command reads it (30_encoding.md R51). -/
def State.operandB (s : State) : Int := sext32 s.argB

/-- The length in bytes of a packed grid: (H/8)*W (20_memory.md R33). -/
def packedLen (w h : Nat) : Nat := h / Config.pageRows * w

/-- The index of the byte for page p and column c (20_memory.md R33). -/
def packedIndex (w p c : Nat) : Nat := p * w + c

/-- The byte of page p and column c: bit b is the pixel at row p*8 + b (20_memory.md R34). -/
def State.packedByte (s : State) (p c : Nat) : Byte :=
  BitVec.ofNat 8 (rowBits (fun b => s.pix (p * Config.pageRows + b) c) Config.pageRows)

/-- The bytes ENCODE writes, page-major and column-minor (41_codec.md R83). -/
def State.packedCells (s : State) : List Host.Cell :=
  (List.range (s.gridH / Config.pageRows)).flatMap fun p =>
    (List.range s.gridW).map fun c => (packedIndex s.gridW p c, s.packedByte p c)

/-- The grid DECODE builds at the accepted dimensions: the cell of row p*8 + b and column c is bit b of
the byte at p*W + c where that byte is present (index below BUF_LEN), else off (41_codec.md R84). -/
def State.unpackedGrid (s : State) (w h : Nat) : Grid :=
  Grid.ofFn fun r c =>
    if r < h ∧ c < w then
      let i := packedIndex w (r / Config.pageRows) c
      decide (i < s.bufLen.toNat) && (s.memRead i).getLsbD (r % Config.pageRows)
    else false

/-- The grid RESIZE builds at the accepted dimensions: the top-left overlap kept, the rest off (42_grid.md R90). -/
def State.resizedGrid (s : State) (w h : Nat) : Grid :=
  Grid.ofFn fun r c =>
    if r < min s.gridH h ∧ c < min s.gridW w then s.pix r c else false

/-- The grid with one cell flipped (42_grid.md R92). -/
def State.toggledGrid (s : State) (r0 c0 : Nat) : Grid :=
  Grid.ofFn fun r c => if r = r0 ∧ c = c0 then !(s.pix r c) else s.pix r c

/-- The grid with every cell inside the dimensions flipped (42_grid.md R93). -/
def State.invertedGrid (s : State) : Grid :=
  Grid.ofFn fun r c => if r < s.gridH ∧ c < s.gridW then !(s.pix r c) else s.pix r c

/-- The ROW field of PIX_SEL (10_state.md R22). -/
def State.selRow (s : State) : Nat := (s.pixSel >>> 8).toNat

/-- The COL field of PIX_SEL (10_state.md R22). -/
def State.selCol (s : State) : Nat := (s.pixSel.setWidth 8).toNat

/-- What each register reads as while BUSY = 0 (10_state.md R11 to R24, 40_host_bus.md R61 to R80).
The advance of BUF_PTR by a BUF_DATA read is no part of the value. -/
def State.regValue (s : State) : BusReg → Word
  | .cmd => 0
  | .status => s.status.word
  | .argA => s.argA
  | .argB => s.argB
  | .gridDim => zext32 (BitVec.ofNat 8 s.gridH ++ BitVec.ofNat 8 s.gridW)
  | .adjH => s.adjH
  | .bufLen => zext32 s.bufLen
  | .bufPtr => zext32 s.bufPtr
  | .bufData => zext32 (s.memRead s.bufPtr.toNat)
  | .pixSel => zext32 s.pixSel
  | .pixVal =>
    if s.inGrid s.selRow s.selCol then zext32 (BitVec.ofBool (s.pix s.selRow s.selCol)) else 0

end Sys2Proof.Machine
end

