-- ==== Sys2Proof/Machine/Bus.lean ====
section
/-! DEFINITION. The kinds of instruction, and the meanings of the 22 bus transactions (40_host_bus.md). A write is dropped while
BUSY = 1 (R58); a read of six of the registers is a free draw then (R58). -/
namespace Sys2Proof.Machine

/-- The five commands (30_encoding.md R50). -/
def isCommand : Instr → Bool
  | .encode | .decode _ | .resize | .toggle | .invert => true
  | _ => false

/-- The eleven bus reads (40_host_bus.md R82). -/
def isBusRead : Instr → Bool
  | .rdCmd | .rdStatus | .rdArgA | .rdArgB | .rdGridDim | .rdAdjH => true
  | .rdBufLen | .rdBufPtr | .rdBufData | .rdPixSel | .rdPixVal => true
  | _ => false

/-- The eleven bus writes (40_host_bus.md R82). -/
def isBusWrite : Instr → Bool
  | .wrCmd _ | .wrStatus _ | .wrArgA _ | .wrArgB _ | .wrGridDim _ | .wrAdjH _ => true
  | .wrBufLen _ | .wrBufPtr _ | .wrBufData _ | .wrPixSel _ | .wrPixVal _ => true
  | _ => false

/-- The six reads that are unspecified while BUSY = 1 (40_host_bus.md R58, 70_reset_and_hazards.md R119 (b)). -/
def isGuardedRead : Instr → Bool
  | .rdGridDim | .rdAdjH | .rdBufLen | .rdBufPtr | .rdBufData | .rdPixVal => true
  | _ => false

/-- The outcome of an instruction. -/
abbrev Result := Host.Outcome State Fault Refusal

/-- RD CMD (40_host_bus.md R61). -/
def execRdCmd (s : State) : Result := .next (s.answer (s.regValue .cmd))

/-- WR CMD: issue a command (40_host_bus.md R59). -/
def execWrCmd (data : Word) (s : State) : Result := .next (s.hostWrite (s.issue data))

/-- RD STATUS (40_host_bus.md R63): exact while BUSY = 1 too. -/
def execRdStatus (s : State) : Result := .next (s.answer (s.regValue .status))

/-- WR STATUS: clear BUSYERR (40_host_bus.md R62). -/
def execWrStatus (data : Word) (s : State) : Result :=
  .next (s.hostWrite { s with status := s.status.hostWritten data })

/-- RD ARG_A (40_host_bus.md R65): exact while BUSY = 1 too (R58). -/
def execRdArgA (s : State) : Result := .next (s.answer (s.regValue .argA))

/-- WR ARG_A (40_host_bus.md R64). -/
def execWrArgA (data : Word) (s : State) : Result := .next (s.hostWrite { s with argA := data })

/-- RD ARG_B (40_host_bus.md R67): exact while BUSY = 1 too (R58). -/
def execRdArgB (s : State) : Result := .next (s.answer (s.regValue .argB))

/-- WR ARG_B (40_host_bus.md R66). -/
def execWrArgB (data : Word) (s : State) : Result := .next (s.hostWrite { s with argB := data })

/-- RD GRID_DIM (40_host_bus.md R68). -/
def execRdGridDim (s : State) : Result := .next (s.guardedRead (s.answer (s.regValue .gridDim)))

/-- WR GRID_DIM: no effect, the register is read-only (40_host_bus.md R69). -/
def execWrGridDim (_data : Word) (s : State) : Result := .next (s.hostWrite s)

/-- RD ADJ_H (40_host_bus.md R70). -/
def execRdAdjH (s : State) : Result := .next (s.guardedRead (s.answer (s.regValue .adjH)))

/-- WR ADJ_H: no effect, the register is read-only (40_host_bus.md R71). -/
def execWrAdjH (_data : Word) (s : State) : Result := .next (s.hostWrite s)

/-- RD BUF_LEN (40_host_bus.md R73). -/
def execRdBufLen (s : State) : Result := .next (s.guardedRead (s.answer (s.regValue .bufLen)))

/-- WR BUF_LEN: bits 31:16 ignored (40_host_bus.md R72). -/
def execWrBufLen (data : Word) (s : State) : Result :=
  .next (s.hostWrite { s with bufLen := data.setWidth 16 })

/-- RD BUF_PTR (40_host_bus.md R77). -/
def execRdBufPtr (s : State) : Result := .next (s.guardedRead (s.answer (s.regValue .bufPtr)))

/-- WR BUF_PTR: bits 31:16 ignored (40_host_bus.md R74). -/
def execWrBufPtr (data : Word) (s : State) : Result :=
  .next (s.hostWrite { s with bufPtr := data.setWidth 16 })

/-- RD BUF_DATA: fetch one packed byte and advance BUF_PTR (40_host_bus.md R76). -/
def execRdBufData (s : State) : Result :=
  .next (s.guardedRead (s.answer (s.regValue .bufData)).advancePtr)

/-- WR BUF_DATA: store one packed byte and advance BUF_PTR (40_host_bus.md R75). -/
def execWrBufData (data : Word) (s : State) : Result :=
  .next (s.hostWrite (s.memWrite s.bufPtr.toNat (data.setWidth 8)).advancePtr)

/-- RD PIX_SEL (40_host_bus.md R80): exact while BUSY = 1 too (R58). -/
def execRdPixSel (s : State) : Result := .next (s.answer (s.regValue .pixSel))

/-- WR PIX_SEL: bits 31:16 ignored (40_host_bus.md R78). -/
def execWrPixSel (data : Word) (s : State) : Result :=
  .next (s.hostWrite { s with pixSel := data.setWidth 16 })

/-- RD PIX_VAL: read one pixel (40_host_bus.md R79). -/
def execRdPixVal (s : State) : Result := .next (s.guardedRead (s.answer (s.regValue .pixVal)))

/-- WR PIX_VAL: no effect, the register is read-only (40_host_bus.md R81). -/
def execWrPixVal (_data : Word) (s : State) : Result := .next (s.hostWrite s)

end Sys2Proof.Machine
end

