-- ==== Sys2Proof/Machine/Codec.lean ====
section
/-! DEFINITION. The codec commands ENCODE and DECODE (41_codec.md), each the whole completion step of
40_host_bus.md R60 for its word, BUSY <- 0 included. -/
namespace Sys2Proof.Machine

/-- ENCODE: pack the grid into the buffer (41_codec.md R83). -/
def execEncode (s : State) : Result :=
  .next { s.memWriteAll s.packedCells with
    bufLen := BitVec.ofNat 16 (packedLen s.gridW s.gridH)
    bufPtr := 0 }.succeed

/-- DECODE after CheckDims has accepted the dimensions: the length comparison, the refusal with F = 0,
the short-buffer warning and the replacement of the grid (41_codec.md R84). -/
def State.decodeChecked (s : State) (force : Bool) (w h : Nat) : State :=
  let e := packedLen w h
  let l := s.bufLen.toNat
  if l = e then (s.replaceGrid (s.unpackedGrid w h) w h).succeed
  else
    let warned := s.warn .lenmm
    if force then
      let shorted := if l < e then warned.warn .short else warned
      (shorted.replaceGrid (s.unpackedGrid w h) w h).succeed
    else warned.endCommand

/-- DECODE: unpack the buffer into a new grid (41_codec.md R84). -/
def execDecode (force : Bool) (s : State) : Result :=
  match s.checkDims s.operandA s.operandB with
  | (rejected, none) => .next rejected
  | (checked, some (w, h)) => .next (checked.decodeChecked force w h)

end Sys2Proof.Machine
end

