-- ==== Sys2Proof/Machine/GridCmd.lean ====
section
/-! DEFINITION. The grid commands RESIZE, TOGGLE and INVERT (42_grid.md), each the whole completion step
of 40_host_bus.md R60 for its word, BUSY <- 0 included. -/
namespace Sys2Proof.Machine

/-- RESIZE: new dimensions, the top-left overlap kept (42_grid.md R90). -/
def execResize (s : State) : Result :=
  match s.checkDims s.operandA s.operandB with
  | (rejected, none) => .next rejected
  | (checked, some (w, h)) => .next (checked.replaceGrid (checked.resizedGrid w h) w h).succeed

/-- TOGGLE: flip one pixel; out of bounds nothing is flipped and OK is set all the same (42_grid.md R92). -/
def execToggle (s : State) : Result :=
  if 0 ≤ s.operandA ∧ s.operandA < s.gridH ∧ 0 ≤ s.operandB ∧ s.operandB < s.gridW then
    .next { s with grid := s.toggledGrid s.operandA.toNat s.operandB.toNat }.succeed
  else .next s.succeed

/-- INVERT: flip every pixel (42_grid.md R93). -/
def execInvert (s : State) : Result := .next { s with grid := s.invertedGrid }.succeed

end Sys2Proof.Machine
end

