-- ==== Sys2Proof/Machine/Dispatch.lean ====
section
/-! DEFINITION. The meaning of each instruction, one arm for each constructor of Instr. -/
namespace Sys2Proof.Machine

def exec (i : Instr) (s : State) : Host.Outcome State Fault Refusal :=
  match i with
  | .encode => Sys2Proof.Machine.execEncode s
  | .decode force => Sys2Proof.Machine.execDecode force s
  | .resize => Sys2Proof.Machine.execResize s
  | .toggle => Sys2Proof.Machine.execToggle s
  | .invert => Sys2Proof.Machine.execInvert s
  | .rdCmd => Sys2Proof.Machine.execRdCmd s
  | .wrCmd data => Sys2Proof.Machine.execWrCmd data s
  | .rdStatus => Sys2Proof.Machine.execRdStatus s
  | .wrStatus data => Sys2Proof.Machine.execWrStatus data s
  | .rdArgA => Sys2Proof.Machine.execRdArgA s
  | .wrArgA data => Sys2Proof.Machine.execWrArgA data s
  | .rdArgB => Sys2Proof.Machine.execRdArgB s
  | .wrArgB data => Sys2Proof.Machine.execWrArgB data s
  | .rdGridDim => Sys2Proof.Machine.execRdGridDim s
  | .wrGridDim data => Sys2Proof.Machine.execWrGridDim data s
  | .rdAdjH => Sys2Proof.Machine.execRdAdjH s
  | .wrAdjH data => Sys2Proof.Machine.execWrAdjH data s
  | .rdBufLen => Sys2Proof.Machine.execRdBufLen s
  | .wrBufLen data => Sys2Proof.Machine.execWrBufLen data s
  | .rdBufPtr => Sys2Proof.Machine.execRdBufPtr s
  | .wrBufPtr data => Sys2Proof.Machine.execWrBufPtr data s
  | .rdBufData => Sys2Proof.Machine.execRdBufData s
  | .wrBufData data => Sys2Proof.Machine.execWrBufData data s
  | .rdPixSel => Sys2Proof.Machine.execRdPixSel s
  | .wrPixSel data => Sys2Proof.Machine.execWrPixSel data s
  | .rdPixVal => Sys2Proof.Machine.execRdPixVal s
  | .wrPixVal data => Sys2Proof.Machine.execWrPixVal data s

end Sys2Proof.Machine
end

