-- ==== Sys2Proof/Machine/HostText.lean ====
section
/-! DEFINITION. The host's text formats: the export text and the import token scan
(47_host_text_formats.md R96, R97). Text is a list of characters. They are no function of the block (00_scope.md R4). -/
namespace Sys2Proof.Machine

/-- The lowercase hexadecimal digit of a number below 16 (47_host_text_formats.md R96). -/
def hexDigit (n : Nat) : Char := if n < 10 then Char.ofNat (0x30 + n) else Char.ofNat (0x57 + n)

/-- The value of a hexadecimal digit of either case: 0-9, a-f, A-F (47_host_text_formats.md R97). -/
def hexValue (c : Char) : Option Nat :=
  if 0x30 ≤ c.toNat ∧ c.toNat ≤ 0x39 then some (c.toNat - 0x30)
  else if 0x61 ≤ c.toNat ∧ c.toNat ≤ 0x66 then some (c.toNat - 0x57)
  else if 0x41 ≤ c.toNat ∧ c.toNat ≤ 0x46 then some (c.toNat - 0x37)
  else none

/-- `tok(d)`: `0x` and exactly two lowercase hexadecimal digits (47_host_text_formats.md R96). -/
def exportToken (d : Byte) : List Char :=
  ['0', 'x', hexDigit (d.toNat / 16), hexDigit (d.toNat % 16)]

/-- `line(k)`: twelve tokens joined by comma and space; every line but the last ends with a comma (47_host_text_formats.md R96). -/
def exportLine (bytes : List Byte) (k : Nat) : List Char :=
  List.intercalate [',', ' ']
      (((bytes.drop (Config.lineBytes * k)).take Config.lineBytes).map exportToken)
    ++ (if Config.lineBytes * k + Config.lineBytes < bytes.length then [','] else [])

/-- The wrapper before the lines, its opening brace (character 0x7B) and newline included (47_host_text_formats.md R96). -/
def exportHeader : List Char :=
  ['c', 'o', 'n', 's', 't', ' ', 'u', 'i', 'n', 't', '8', '_', 't', ' ', 'b', 'i', 't', 'm', 'a', 'p',
    'D', 'a', 't', 'a', '[', ']', ' ', '=', ' ', Char.ofNat 0x7B, '\n']

/-- The wrapper after the lines: newline, closing brace (character 0x7D), semicolon (47_host_text_formats.md R96). -/
def exportFooter : List Char := ['\n', Char.ofNat 0x7D, ';']

/-- The export text of a list of bytes (47_host_text_formats.md R96). R96 takes one byte or more; of none it is the wrapper
about an empty line (DESIGN CHOICE, log entry 24). -/
def exportText (bytes : List Byte) : List Char :=
  exportHeader
    ++ List.intercalate ['\n']
      ((List.range ((bytes.length + (Config.lineBytes - 1)) / Config.lineBytes)).map (exportLine bytes))
    ++ exportFooter

/-- Where the import token scan stands (47_host_text_formats.md R97). -/
inductive ScanState where
  /-- At no part of a token. -/
  | idle
  /-- After a `0` that may begin one. -/
  | zero
  /-- After `0x`: a hexadecimal digit makes it a token. -/
  | mark
  /-- After `0x` and one digit: a second digit belongs to the same token. -/
  | digit (a : Nat)
deriving DecidableEq, Repr

/-- The scan from a state: at `0x` before a hexadecimal digit the longest run of one or two digits is a
token, and the scan goes on after it; every other character is skipped (47_host_text_formats.md R97). -/
def scanFrom : ScanState → List Char → List Byte
  | .digit a, [] => [BitVec.ofNat 8 a]
  | .idle, [] => []
  | .zero, [] => []
  | .mark, [] => []
  | .idle, c :: rest => scanFrom (if c = '0' then .zero else .idle) rest
  | .zero, c :: rest => scanFrom (if c = 'x' then .mark else if c = '0' then .zero else .idle) rest
  | .mark, c :: rest =>
    match hexValue c with
    | some a => scanFrom (.digit a) rest
    | none => scanFrom .idle rest
  | .digit a, c :: rest =>
    match hexValue c with
    | some b => BitVec.ofNat 8 (16 * a + b) :: scanFrom .idle rest
    | none => BitVec.ofNat 8 a :: scanFrom .idle rest

/-- The import token scan of a text: its bytes in the order of their tokens (47_host_text_formats.md R97). -/
def scanTokens (text : List Char) : List Byte := scanFrom .idle text

/-- MalformedInputError: the scan finds no token (47_host_text_formats.md R98). -/
def malformedInput (text : List Char) : Bool := (scanTokens text).isEmpty

end Sys2Proof.Machine
end

