-- ==== Sys2Proof/Machine/Session.lean ====
section
/-! DEFINITION. The host's dealings with its user: the notices a STATUS calls for, the user's answer, and how far the
host has met its duties (47_host_text_formats.md R100, 60_exceptions.md R115). -/
namespace Sys2Proof.Machine

/-- OK = 1 in a STATUS value (47_host_text_formats.md R100). -/
def statusOk (status : Word) : Bool := status.getLsbD 1

/-- VALERR = 1 in a STATUS value (47_host_text_formats.md R100). -/
def statusRejected (status : Word) : Bool := status.getLsbD 2

/-- LENMM = 1 and OK = 0 in a STATUS value: a length mismatch the block refused (47_host_text_formats.md R100). -/
def statusRefused (status : Word) : Bool := status.getLsbD 3 && !statusOk status

/-- The notices that a STATUS and an ADJ_H call for, whatever the command's end: HADJ with the height, VALERR, LENMM
and SHORT (47_host_text_formats.md R100, R101, 60_exceptions.md R115). The spec gives several notices of one STATUS no
order; they are shown in this one (DESIGN CHOICE, log entry 21). -/
def noticesOf (status adjH : Word) : List Notice :=
  (if status.getLsbD 5 then [.adjustedHeight adjH] else [])
    ++ (if statusRejected status then [.validationError] else [])
    ++ (if status.getLsbD 3 then [.lengthMismatch] else [])
    ++ (if status.getLsbD 4 then [.shortBuffer] else [])

/-- The command word DECODE.F (30_encoding.md R50). -/
def isForcedDecodeWord (w : Word) : Bool :=
  match decodeCmd w with
  | .ok (.decode force) => force
  | _ => false

/-- The host has issued a command: its end is awaited, its notices are still to be shown, and a proceed is used up. -/
def Session.issued (ss : Session) : Session := { ss with awaiting := true, reported := false, consent := none }

/-- The host has read a STATUS that shows BUSY = 0: the wait is over, and the host has seen a refusal for the length
where it shows one (47_host_text_formats.md R100). -/
def Session.polled (ss : Session) (status : Word) : Session :=
  { ss with awaiting := false, refused := ss.refused || statusRefused status }

/-- The host has written to the buffer or its length: a proceed was to another buffer (47_host_text_formats.md R100). -/
def Session.reloaded (ss : Session) : Session := { ss with consent := none }

/-- What the host keeps of a bus access it has made; `busy` is BUSY as the access came, `rdata` what it returned. -/
def Session.note (ss : Session) (i : Instr) (busy : Bool) (rdata : Word) : Session :=
  match i with
  | .wrCmd _ => if busy then ss else ss.issued
  | .wrBufData _ => ss.reloaded
  | .wrBufLen _ => ss.reloaded
  | .rdStatus => if rdata.getLsbD 0 then ss else ss.polled rdata
  | _ => ss

/-- The host's dealings with its user change, and nothing else. -/
def State.setSession (s : State) (ss : Session) : State := { s with session := ss }

/-- The host's own record of the access it has made. -/
def State.noted (s : State) (i : Instr) (busy : Bool) : State :=
  s.setSession (s.session.note i busy s.rdata)

/-- The notices the block's own STATUS and ADJ_H call for. -/
def State.notices (s : State) : List Notice := noticesOf s.status.word s.adjH

/-- Notices of the last command that the user has not been shown (60_exceptions.md R115). -/
def State.owesNotices (s : State) : Bool := !s.session.reported && !s.notices.isEmpty

/-- The user is shown notices. This alone makes no notice of the last command count as shown: of the host's lines only
`report` does that (`State.reportNotices`; DESIGN CHOICE, log entry 13). -/
def State.show (s : State) (ns : List Notice) : State :=
  s.setSession { s.session with shown := s.session.shown ++ ns }

/-- The user is shown the notices of the STATUS and ADJ_H the host has read. They are those of the last command where
its end has been seen and the values are the block's own: the one act that meets the notices duty of 60_exceptions.md
R115, which says no more than "show" (DESIGN CHOICE, log entry 13). -/
def State.reportNotices (s : State) (status adjH : Word) : State :=
  s.setSession { s.session with
    shown := s.session.shown ++ noticesOf status adjH
    reported := s.session.reported
      || (!s.session.awaiting && decide (noticesOf status adjH = s.notices)) }

/-- What a DECODE.F issued now would be of. -/
def State.choice (s : State) : Choice := ⟨s.argA, s.argB, s.bufLen⟩

/-- DECODE.F without the user's proceed: the host has seen a refusal for the length, and has no proceed to a forced decode
of this buffer at these dimensions (47_host_text_formats.md R100, 60_exceptions.md R115). That a DECODE.F before any
refusal was seen needs no question is a reading of R115's "after a LENMM refusal", which R100's closing words do not say
(DESIGN CHOICE, log entry 13). -/
def State.lacksConsent (s : State) : Bool := s.session.refused && !decide (s.session.consent = some s.choice)

/-- The user's answer to the next question: the one the environment fixed, else a free value (log entry 17). -/
def Session.answer (ss : Session) : Bool :=
  match ss.answers with
  | b :: _ => b
  | [] => Config.userAnswer ss.asked

/-- The host has asked: the answer is used up, and a proceed is to the forced decode the block now holds the operands of,
where the last command's end has been seen (47_host_text_formats.md R100). -/
def State.asked (s : State) : State :=
  s.setSession { s.session with
    answers := s.session.answers.tail
    asked := s.session.asked + 1
    consent := if s.session.answer && !s.session.awaiting then some s.choice else none }

/-- The reading line has read one byte more, or is done. -/
def State.setLoop (s : State) (n : Nat) : State := s.setSession { s.session with loop := n }

/-- An export text is given out (47_host_text_formats.md R95). -/
def State.give (s : State) (text : List Char) : State :=
  s.setSession { s.session with exports := s.session.exports ++ [text] }

end Sys2Proof.Machine
end

