-- ==== Sys2Proof/Machine/HostAgent.lean ====
section
/-! DEFINITION. The agents (00_scope.md R9): the host performing its lines, the block completing the
pending command, reset, and which of them moves (40_host_bus.md R58). `run` is the meaning of an instruction. -/
namespace Sys2Proof.Machine

/-- The host has performed its last line (70_reset_and_hazards.md R123). -/
def State.hostDone (s : State) : Bool := decide (s.prog.length ≤ s.pos)

/-- The host goes on to its next line. -/
def State.nextLine (s : State) : State := { s with pos := s.pos + 1 }

/-- The host goes on at a label (30_encoding.md R55); a label that is not declared stops the host (log entry 14). -/
def State.jumpTo (s : State) (l : Nat) : Result :=
  match s.prog.findIdx? (fun line => line.declares == some l) with
  | some p => .next { s with pos := p }
  | none => .fault (.hostUnknownLabel l)

/-- A read binds its returned value to the variable of its line (30_encoding.md R55). -/
def State.bindRead (s : State) (sel : BitVec 9) (bind : Option Nat) : State :=
  match bind with
  | none => s
  | some v => if selIsWrite sel then s else { s with vars := assocSet v s.rdata s.vars }

/-- The refusal of a selector that is not admitted (20_memory.md R35). The other reasons are those of
command words, which no bus access meets. -/
def refusalOf : DecodeError → Refusal
  | .misaligned => .accessMisaligned
  | .unmapped => .accessUnmapped
  | .reservedBits => .accessUnmapped
  | .illegalOp => .accessUnmapped
  | .forceWithoutDecode => .accessUnmapped

/-- One bus access of the host: refused where 20_memory.md R35 refuses it, else the transaction it decodes to, its
value bound, the access noted, and `go` after it. -/
def busAccess (run : Instr → State → Result) (width : Nat) (sel : BitVec 9) (data : Word)
    (bind : Option Nat) (go : State → State) (s : State) : Result :=
  if width = Config.accessBits then
    match decodeBus sel data with
    | .error e => .refused (refusalOf e)
    | .ok i =>
      match run i s with
      | .next t => .next (go ((t.bindRead sel bind).noted i s.status.busy))
      | .fault f => .fault f
      | .refused r => .refused r
  else .refused .accessNotFullWord

/-- The reading line has one read behind it. -/
def State.nextByte (s : State) : State := s.setLoop (s.session.loop + 1)

/-- A reading line: one more read of BUF_DATA while fewer than `n` are made, then the next line
(47_host_text_formats.md R95). -/
def readByte (run : Instr → State → Result) (n first : Nat) (s : State) : Result :=
  if s.session.loop < n then
    busAccess run Config.accessBits (selector false .bufData) 0 (some (first + s.session.loop)) State.nextByte s
  else .next (s.setLoop 0).nextLine

/-- The bytes that `n` variables from `first` on hold, or the first of them that is unbound. -/
def State.boundBytes (s : State) (first : Nat) : Nat → Except Nat (List Byte)
  | 0 => .ok []
  | n + 1 =>
    match assocGet first s.vars with
    | none => .error first
    | some w =>
      match s.boundBytes (first + 1) n with
      | .ok bytes => .ok (w.setWidth 8 :: bytes)
      | .error v => .error v

/-- Go on with a variable's value; an unbound variable stops the host (log entry 14). -/
def State.withVar (s : State) (v : Nat) (go : Word → Result) : Result :=
  match assocGet v s.vars with
  | none => .fault (.hostUnboundVariable v)
  | some w => go w

/-- One line of the host's program. All but a bus line and a reading line touch only the host (30_encoding.md R55).
BIT1 with a bit number of 32 or more, which a 32-bit variable does not have, takes the bit as 0 and does not branch
(DESIGN CHOICE, log entry 18). -/
def hostLine (run : Instr → State → Result) (line : HostLine) (s : State) : Result :=
  match line with
  | .bus width sel data bind => busAccess run width sel data bind State.nextLine s
  | .label _ => .next s.nextLine
  | .goto l => s.jumpTo l
  | .bit1 v n l => s.withVar v fun w => if w.getLsbD n then s.jumpTo l else .next s.nextLine
  | .check v value => s.withVar v fun w => if w = value then .next s.nextLine else .fault (.hostCheckFailed v)
  | .tell n => .next (s.show [n]).nextLine
  | .report v a => s.withVar v fun status => s.withVar a fun adjH => .next (s.reportNotices status adjH).nextLine
  | .ask l => if s.session.answer then s.asked.jumpTo l else .next s.asked.nextLine
  | .readBytes count first => s.withVar count fun n => readByte run n.toNat first s
  | .output count first => s.withVar count fun n =>
    match s.boundBytes first n.toNat with
    | .ok bytes => .next (s.give (exportText bytes)).nextLine
    | .error v => .fault (.hostUnboundVariable v)

/-- The instruction of the host's next step, where that is an admitted bus access. -/
def State.nextAccess (s : State) : Option Instr :=
  match s.prog[s.pos]? with
  | some (.bus width sel data _) =>
    if width = Config.accessBits then (decodeBus sel data).toOption else none
  | some (.readBytes count _) =>
    match assocGet count s.vars with
    | some n => if s.session.loop < n.toNat then some .rdBufData else none
    | none => none
  | _ => none

/-- The host's next step is no hazard of the busy window: no write, and no read of the six registers, while BUSY = 1.
70_reset_and_hazards.md R119 asks for more, that the host has polled STATUS until BUSY = 0: see `State.meetsDuties`. -/
def State.meetsWaitRule (s : State) : Bool :=
  !s.status.busy ||
    match s.nextAccess with
    | some i => !(isBusWrite i || isGuardedRead i)
    | none => true

/-- The host meets its duties of 60_exceptions.md R115 at its next step. After a command word it reads STATUS until that
shows BUSY = 0 before a write or a read of the six registers (70_reset_and_hazards.md R119); it writes no command word
while the last command's notices are not shown, nor ends so; and once it has seen a refusal for the length it writes no
DECODE.F but one that the user has said proceed to (47_host_text_formats.md R100, log entry 13). By when the notices must
be shown is the model's choice (DESIGN CHOICE, log entry 13): R115 says only "show", and lets the host stop at any point
with BUSY = 0. -/
def State.meetsDuties (s : State) : Bool :=
  match s.nextAccess with
  | some (.wrCmd w) =>
    !s.session.awaiting && !s.owesNotices && !(isForcedDecodeWord w && s.lacksConsent)
  | some i => !(s.session.awaiting && (isBusWrite i || isGuardedRead i))
  | none => !(s.hostDone && s.owesNotices)

/-- A host that is bound to its duties would break one at its next step: it has no such move (60_exceptions.md R115). -/
def State.breaksDuty (s : State) : Bool := s.session.bound && !s.meetsDuties

/-- The block's step: complete the pending command; an illegal word raises ILLCMD and does nothing
else (40_host_bus.md R60, 30_encoding.md R52). -/
def blockStep (run : Instr → State → Result) (s : State) : Result :=
  match decodeCmd s.pend with
  | .ok i => run i s
  | .error _ => .next (s.raise .illcmd)

/-- The reset input is asserted at this step (70_reset_and_hazards.md R116, log entry 6). -/
def State.resetAsserted (s : State) : Bool := s.resets.head?.getD false

/-- The step's sample of the reset input is used up. -/
def State.sampled (s : State) : State := { s with resets := s.resets.tail }

/-- A host step in the busy window counts toward T_CMD (70_reset_and_hazards.md R121). -/
def State.counted (s : State) : State :=
  if s.status.busy then { s with delay := s.delay - 1 } else s

/-- The block moves: a command is pending, and its host steps have passed or the host has no line left
(40_host_bus.md R58, log entries 3 and 5). -/
def State.blockMoves (s : State) : Bool := s.status.busy && (s.hostDone || s.delay == 0)

/-- One step (40_host_bus.md R58): reset before everything (60_exceptions.md R106); else the block where
it moves; else the host's next line, a bound host's only where it breaks no duty (60_exceptions.md R115); with neither,
the block stays idle (60_exceptions.md R114). -/
def stepWith (run : Instr → State → Result) (s : State) : Result :=
  if s.resetAsserted then .next s.applyReset
  else if s.sampled.blockMoves then blockStep run s.sampled
  else if s.breaksDuty then .refused .hostDutyBroken
  else
    match s.prog[s.pos]? with
    | none => .next s.sampled
    | some line => hostLine run line s.sampled.counted

/-- A state whose reset input is not asserted at the next step. -/
def State.withoutReset (s : State) : State := { s with resets := false :: s.resets.tail }

/-- A state whose next step is one bus transaction of the host: the host's program is that one line, the host is free
to perform it, and a pending command waits for it (log entries 9 and 10). -/
def State.placeBus (s : State) (sel : BitVec 9) (data : Word) : State :=
  { s.withoutReset with
    prog := [.bus Config.accessBits sel data none]
    pos := 0
    delay := if s.status.busy then max 1 s.delay else s.delay
    session := { s.session with bound := false } }

/-- A state whose next step completes a command word: the word issued, its host steps passed (log entries 9 and 10). -/
def State.placeCmd (s : State) (w : Word) : State :=
  { s.withoutReset with pend := w, status := s.status.issued, delay := 0 }

/-- The encoded object placed where the next step takes it: a bus transaction with the host, a command word in PEND. -/
def State.placeEncoded (s : State) : Encoded → State
  | .bus sel data => s.placeBus sel data
  | .cmd w => s.placeCmd w

/-- The word of the table's numbering placed where the next step takes it (log entry 10); a number that
is no encoded object places nothing. -/
def State.placeTableWord (s : State) (nbits w : Nat) : State :=
  match encodedOfTableWord nbits w with
  | none => s
  | some e => s.placeEncoded e

end Sys2Proof.Machine
end

