-- ==== Sys2Proof/Machine/Step.lean ====
section
/-! DEFINITION. One step of the machine, and the placing of one instruction for the next step. -/
namespace Sys2Proof.Machine

/-- One step: the agent whose turn it is, with the instructions of exec (40_host_bus.md R58). -/
def step (s : State) : Host.Outcome State Fault Refusal := stepWith exec s

/-- The state with one instruction placed where step takes its next one (log entries 9 and 10). -/
def State.withFetchWord (s : State) (nbits w : Nat) : State := s.placeTableWord nbits w

end Sys2Proof.Machine
end

