-- ==== Sys2Proof/Machine/HostMacros.lean ====
section
/-! DEFINITION. The pseudo-instructions of 30_encoding.md R56 as host lines, and the host's procedures
for export, import and painting (47_host_text_formats.md R95, R98 to R101). `l` is a fresh label, `v` a variable. -/
namespace Sys2Proof.Machine

/-- `ISSUE`: `WR CMD, w` (30_encoding.md R56). -/
def issueLines (w : Nat) : List HostLine := [.wr .cmd w]

/-- `WAIT`: `L: RD STATUS -> s` / `BIT1 s, 0, L` (30_encoding.md R56). -/
def waitLines (l v : Nat) : List HostLine := [.label l, .rd .status (some v), .bit1 v 0 l]

/-- `ENCODE` (30_encoding.md R56). -/
def encodeLines (l v : Nat) : List HostLine := issueLines 0x01 ++ waitLines l v

/-- `INVERT` (30_encoding.md R56). -/
def invertLines (l v : Nat) : List HostLine := issueLines 0x05 ++ waitLines l v

/-- A command with operands: `WR ARG_A, a` / `WR ARG_B, b` / `ISSUE` / `WAIT` (30_encoding.md R56). -/
def operandLines (w : Nat) (a b : Int) (l v : Nat) : List HostLine :=
  [.wr .argA a, .wr .argB b] ++ issueLines w ++ waitLines l v

/-- `RESIZE w, h` (30_encoding.md R56). -/
def resizeLines (w h : Int) (l v : Nat) : List HostLine := operandLines 0x03 w h l v

/-- `DECODE w, h` (30_encoding.md R56). -/
def decodeLines (w h : Int) (l v : Nat) : List HostLine := operandLines 0x02 w h l v

/-- `DECODE.F w, h` (30_encoding.md R56). -/
def decodeForceLines (w h : Int) (l v : Nat) : List HostLine := operandLines 0x12 w h l v

/-- `TOGGLE r, c` (30_encoding.md R56). -/
def toggleLines (r c : Int) (l v : Nat) : List HostLine := operandLines 0x04 r c l v

/-- `LOADBUF b0, ..., bn-1` (30_encoding.md R56). -/
def loadBufLines (bytes : List Byte) : List HostLine :=
  HostLine.wr .bufPtr 0 :: bytes.map (fun b => HostLine.wr .bufData b.toNat)
    ++ [HostLine.wr .bufLen bytes.length]

/-- `READPIX r, c -> v` (30_encoding.md R56). -/
def readPixLines (r c : Int) (v : Nat) : List HostLine :=
  [.wr .pixSel (r * 256 + c), .rd .pixVal (some v)]

/-- Export (47_host_text_formats.md R95): ENCODE and WAIT, n = BUF_LEN into variable `v + 1`, `BUF_PTR <- 0`, `n` reads
of BUF_DATA into the variables from `v + 2` on, and the export text of those `n` bytes. R95 is silent where a reset
discards the ENCODE: the export goes on, reads BUF_LEN = 0 and gives out the wrapper with no byte (DESIGN CHOICE, log entry 24). -/
def exportLines (l v : Nat) : List HostLine :=
  encodeLines l v
    ++ [.rd .bufLen (some (v + 1)), .wr .bufPtr 0, .readBytes (v + 1) (v + 2), .output (v + 1) (v + 2)]

/-- Import, the load of the m tokens of a text (47_host_text_formats.md R99): `BUF_PTR <- 0`, the tokens to BUF_DATA,
`BUF_LEN <- min(m, 65535)`; with no token nothing is written (R98). R99 leaves open whether the host goes on writing past
1024 tokens, which BUF does not store: this one stops there (DESIGN CHOICE, log entry 19). -/
def importLoadLines (tokens : List Byte) : List HostLine :=
  if tokens.isEmpty then []
  else
    HostLine.wr .bufPtr 0 :: (tokens.take Config.bufCap).map (fun b => HostLine.wr .bufData b.toNat)
      ++ [HostLine.wr .bufLen (min tokens.length 65535 : Nat)]

/-- After a DECODE or a RESIZE: read ADJ_H and show what STATUS, already in variable `v`, and ADJ_H call for
(47_host_text_formats.md R100, R101). The read is made whether or not HADJ is set (DESIGN CHOICE, log entry 20). -/
def reportLines (v : Nat) : List HostLine := [.rd .adjH (some (v + 1)), .report v (v + 1)]

/-- The user's choice after a refusal for the length (47_host_text_formats.md R100): on proceed, at label `l`, `DECODE.F w, h`
and its report; on cancel nothing further, on to the label `done`. -/
def choiceLines (w h : Int) (done l v : Nat) : List HostLine :=
  [.ask l, .goto done, .label l] ++ decodeForceLines w h (l + 1) v ++ reportLines v

/-- Import of a text at the user's width and height (47_host_text_formats.md R97 to R100). With no token, the message and
nothing else (R98). Else the load, `DECODE w, h` and its report, and then by STATUS: OK ends the import, LENMM with OK = 0
asks the user, and VALERR ends it. Where STATUS shows none of these, because a reset discarded the DECODE, R100 is silent:
the import ends there with no message (DESIGN CHOICE, log entry 22). -/
def importLines (text : List Char) (w h : Int) (l v : Nat) : List HostLine :=
  if malformedInput text then [.tell .malformedInput]
  else
    importLoadLines (scanTokens text) ++ decodeLines w h l v ++ reportLines v
      ++ [.bit1 v 1 (l + 1), .bit1 v 3 (l + 2), .goto (l + 1), .label (l + 2)]
      ++ choiceLines w h (l + 1) (l + 3) v ++ [.label (l + 1)]

/-- What an import comes to on its tokens and the STATUS and ADJ_H read after the DECODE, each with the notices to show
(47_host_text_formats.md R98, R100). -/
inductive ImportReport where
  /-- No token: show a MalformedInputError message; no command was issued. -/
  | malformed
  /-- OK = 1: done. -/
  | done (shown : List Notice)
  /-- VALERR = 1: the grid is unchanged. -/
  | validationError (shown : List Notice)
  /-- LENMM = 1 and OK = 0: offer the user a proceed or cancel choice; the grid is unchanged. -/
  | askUser (shown : List Notice)
  /-- None of these: the DECODE has not completed or was discarded, or another command's STATUS was read (log entry 22). -/
  | noReport
deriving DecidableEq, Repr

/-- The host's reading of the tokens, and of STATUS and ADJ_H after a DECODE (47_host_text_formats.md R98, R100). -/
def importReport (tokens : List Byte) (status adjH : Word) : ImportReport :=
  if tokens.isEmpty then .malformed
  else if statusOk status then .done (noticesOf status adjH)
  else if statusRejected status then .validationError (noticesOf status adjH)
  else if statusRefused status then .askUser (noticesOf status adjH)
  else .noReport

/-- A change of resolution (47_host_text_formats.md R101): `RESIZE w, h`, and HADJ with ADJ_H, and VALERR, shown. -/
def resolutionLines (w h : Int) (l v : Nat) : List HostLine := resizeLines w h l v ++ reportLines v

/-- Paint one pixel and read it back for a single-cell redraw (47_host_text_formats.md R101). -/
def paintLines (r c : Int) (l v : Nat) : List HostLine := toggleLines r c l v ++ readPixLines r c (v + 1)

/-- A full-grid redraw: READPIX of every cell of a W by H grid into the variables from `v` on (47_host_text_formats.md
R101). R101 gives the cells no order; they are read row by row, each from column 0 on (DESIGN CHOICE, log entry 23). -/
def redrawLines (w h v : Nat) : List HostLine :=
  (List.range h).flatMap fun (r : Nat) => (List.range w).flatMap fun (c : Nat) => readPixLines r c (v + r * w + c)

end Sys2Proof.Machine
end

