-- ==== Sys2Proof/WellFormed.lean ====
section
/-! DEFINITION. Well-formedness: of an instruction, of an encoded object, of a host line and of a host program. -/
namespace Sys2Proof

/-- An instruction is well formed for every value of its operands: DATA is any 32-bit value
(40_host_bus.md R64, R115) and F any bit (30_encoding.md R49), and both are so by their types. -/
def Instr.wellFormed : Instr → Bool
  | .encode | .decode _ | .resize | .toggle | .invert => true
  | .rdCmd | .rdStatus | .rdArgA | .rdArgB | .rdGridDim | .rdAdjH => true
  | .rdBufLen | .rdBufPtr | .rdBufData | .rdPixSel | .rdPixVal => true
  | .wrCmd _ | .wrStatus _ | .wrArgA _ | .wrArgB _ | .wrGridDim _ | .wrAdjH _ => true
  | .wrBufLen _ | .wrBufPtr _ | .wrBufData _ | .wrPixSel _ | .wrPixVal _ => true

/-- An encoded object that stands for an instruction: one of the 22 selectors (40_host_bus.md R82)
or one of the six legal words (30_encoding.md R50). -/
def Encoded.wellFormed (e : Encoded) : Bool :=
  match decode e with
  | .ok _ => true
  | .error _ => false

/-- The check on one host line by itself: a bus line is a full-word access to an admitted selector
(20_memory.md R35) that binds a variable only if it reads (30_encoding.md R55); BIT1 tests one of the 32 bits
(log entry 18). -/
def Machine.HostLine.wellFormed : Machine.HostLine → Bool
  | .bus width sel data bind =>
    width == Config.accessBits && (Encoded.bus sel data).wellFormed
      && (bind.isNone || !selIsWrite sel)
  | .label _ => true
  | .bit1 _ n _ => decide (n < 32)
  | .goto _ => true
  | .check _ _ | .tell _ | .report _ _ | .ask _ | .readBytes _ _ | .output _ _ => true

/-- A host program is well formed: each line is, no label is declared twice, and every jump has its
label (30_encoding.md R55). -/
def Machine.programWellFormed (p : List Machine.HostLine) : Bool :=
  p.all Machine.HostLine.wellFormed
    && decide (p.filterMap Machine.HostLine.declares).Nodup
    && (p.filterMap Machine.HostLine.target).all (fun l => (p.filterMap Machine.HostLine.declares).contains l)

end Sys2Proof
end

