-- ==== Sys2Proof/Safety.lean ====
section
/-! DEFINITION. The terms claims use: the invariant of every state a run reaches, the agents' turns,
and the end of a run with its observation. -/
namespace Sys2Proof.Machine

/-- The invariant of the machine, kept by every step. -/
structure State.Inv (s : State) : Prop where
  /-- GRID_W is 1 to 128 (10_state.md R27). -/
  width : 1 ≤ s.gridW ∧ s.gridW ≤ Config.maxW
  /-- GRID_H is a multiple of 8 from 8 to 64 (10_state.md R27). -/
  height : s.gridH % Config.pageRows = 0 ∧ Config.pageRows ≤ s.gridH ∧ s.gridH ≤ Config.maxH
  /-- Cells outside the current dimensions are off (10_state.md R28). -/
  outside : ∀ r c, s.gridH ≤ r ∨ s.gridW ≤ c → s.pix r c = false
  /-- BUF is in its canonical form. -/
  bufWf : Mem.wf s.buf = true
  /-- ADJ_H is a multiple of 8 (10_state.md R18, 42_grid.md R88). -/
  adjusted : s.adjH.toNat % Config.pageRows = 0
  /-- While a command is pending, STATUS bits 6:1 are 0 (10_state.md R14). -/
  pending : s.status.busy = true → s.status.noResult = true
  /-- While none is, they are 0 as after reset or one of the combinations of 10_state.md R14. -/
  idle : s.status.busy = false → s.status.noResult = true ∨ s.status.completedResult = true
  /-- The host's variables are in rising order. -/
  vars : assocRising none s.vars = true
  /-- The host knows of a pending command: it awaits the end of one (70_reset_and_hazards.md R119). -/
  awaits : s.status.busy = true → s.session.awaiting = true

/-- A step is the host's: reset is not asserted and the block does not move (40_host_bus.md R58). -/
def State.hostMoves (s : State) : Bool := !s.resetAsserted && !s.sampled.blockMoves

/-- A step is the block's (40_host_bus.md R58, R60). -/
def State.blockCompletes (s : State) : Bool := !s.resetAsserted && s.sampled.blockMoves

/-- The host performs an admitted bus access at this step. -/
def State.hostPerforms (s : State) (i : Instr) : Prop := s.hostMoves = true ∧ s.nextAccess = some i

/-- The block completes a legal command at this step (40_host_bus.md R60). -/
def State.blockPerforms (s : State) (i : Instr) : Prop :=
  s.blockCompletes = true ∧ decodeCmd s.pend = .ok i

/-- Instructions one after another, stopping at the first that stops. -/
def execAll : List Instr → State → Result
  | [], s => .next s
  | i :: rest, s =>
    match exec i s with
    | .next t => execAll rest t
    | .fault f => .fault f
    | .refused r => .refused r

/-- The end of a run: the host has performed its last line and BUSY = 0 (70_reset_and_hazards.md R123). -/
def State.runEnded (s : State) : Bool := s.hostDone && !s.status.busy

/-- The observation at the end of a run (70_reset_and_hazards.md R123). -/
structure Observation where
  /-- The registers of 10_state.md R11, in the order of the map. -/
  registers : List Word
  /-- GRID_W. -/
  width : Nat
  /-- GRID_H. -/
  height : Nat
  /-- GRID[r][c] for r below GRID_H and c below GRID_W, row by row. -/
  pixels : List (List Bool)
  /-- BUF[i] for i below min(BUF_LEN, 1024). -/
  bytes : List Byte
deriving DecidableEq, Repr

/-- The observation of a state (70_reset_and_hazards.md R123). -/
def State.observe (s : State) : Observation where
  registers := BusReg.all.map s.regValue
  width := s.gridW
  height := s.gridH
  pixels := (List.range s.gridH).map fun r => (List.range s.gridW).map fun c => s.pix r c
  bytes := (List.range (min s.bufLen.toNat Config.bufCap)).map s.memRead

end Sys2Proof.Machine
end

