-- ==== Sys2Proof/Certificates/Slice0/Obligations.lean ====
section
/-! DEFINITION. The statements for the provers, each from a numbered rule of spec/ or, where its docstring
says so, from the model's own conventions. -/

open Sys2Proof Sys2Proof.Machine

/-! Encoding -/

/-- 30_encoding.md sections 1 and 2: decoding an encoded instruction gives it back, and an encoded object that decodes
is the encoding of what it decodes to (a read transaction's DATA is the block's to drive and is not kept). -/
def Obligations.DecodeAndEncodeAgree : Prop :=
  (∀ i : Instr, i.wellFormed = true → decode (encode i) = .ok i)
    ∧ (∀ (w : Word) (i : Instr), decode (.cmd w) = .ok i → encode i = .cmd w ∧ isCommand i = true)
    ∧ (∀ (sel : BitVec 9) (data : Word) (i : Instr), decode (.bus sel data) = .ok i →
        encode i = .bus sel (if selIsWrite sel then data else 0)
          ∧ isBusWrite i = selIsWrite sel ∧ isBusRead i = !selIsWrite sel)

/-- R50: exactly six words are legal commands, and each is the command of its row. -/
def Obligations.ExactlySixLegalWords : Prop :=
  (∀ w : Word, (∃ i, decodeCmd w = .ok i) ↔ w ∈ [0x1, 0x2, 0x12, 0x3, 0x4, 0x5])
    ∧ decodeCmd 0x1 = .ok .encode
    ∧ decodeCmd 0x2 = .ok (.decode false)
    ∧ decodeCmd 0x12 = .ok (.decode true)
    ∧ decodeCmd 0x3 = .ok .resize
    ∧ decodeCmd 0x4 = .ok .toggle
    ∧ decodeCmd 0x5 = .ok .invert

/-- R82: the 22 selectors are exactly those of its table, each with its operation; a host access to any other is refused. -/
def Obligations.AdmittedSelectorsAreExactly22 : Prop :=
  (∀ (sel : BitVec 9) (data : Word) (i : Instr), decodeBus sel data = .ok i ↔
    (sel, i) ∈ [
      (0x000, .rdCmd), (0x004, .rdStatus), (0x008, .rdArgA), (0x00C, .rdArgB), (0x010, .rdGridDim),
      (0x014, .rdAdjH), (0x018, .rdBufLen), (0x01C, .rdBufPtr), (0x020, .rdBufData), (0x024, .rdPixSel),
      (0x028, .rdPixVal), (0x100, .wrCmd data), (0x104, .wrStatus data), (0x108, .wrArgA data),
      (0x10C, .wrArgB data), (0x110, .wrGridDim data), (0x114, .wrAdjH data), (0x118, .wrBufLen data),
      (0x11C, .wrBufPtr data), (0x120, .wrBufData data), (0x124, .wrPixSel data), (0x128, .wrPixVal data)])
  ∧ ∀ (s : State) (width : Nat) (sel : BitVec 9) (data : Word) (bind : Option Nat),
      s.hostMoves = true → s.prog[s.pos]? = some (.bus width sel data bind) →
      (∀ i, decodeBus sel data ≠ .ok i) → ∃ r, step s = .refused r

/-- A few words written out from 30_encoding.md R48 to R50 and R57, one or more for each family of the table. The clauses
on `decodeTableWord` rest on the model's own numbering (log entry 10, DESIGN CHOICE): 32 bits are a command word, and 16
bits a selector whose DATA is 0, so that a bare write selector, which no table of the spec encodes, is a write of 0. The
last clause rests on log entry 11 (DESIGN CHOICE): 20_memory.md R35 refuses the offset 0x02 and calls such an offset both
misaligned and unmapped; the model looks at the alignment first and gives each refusal a name of its own. -/
def Obligations.WrittenOutWordsDecode : Prop :=
  decodeTableWord 32 0b00000000000000000000000000010010 = some (.decode true)
    ∧ decodeTableWord 32 0b00000000000000000000000000000011 = some .resize
    ∧ decodeTableWord 32 0b00000000000000000000000000010011 = none
    ∧ decodeTableWord 16 0b100100100 = some (.wrPixSel 0)
    ∧ decodeTableWord 16 0b000101000 = some .rdPixVal
    ∧ decodeTableWord 16 0b000101100 = none
    ∧ decode (.bus 0b100001000 0xFFFFFFFD) = .ok (.wrArgA 0xFFFFFFFD)
    ∧ decode (.bus 0b000000010 0) = .error .misaligned

/-! Stepping -/

/-- 40_host_bus.md section 1: at a host step (reset not asserted, the block not moving) of a host that is not bound to its
duties or meets them, whose line is an admitted full-word access, step is exec of the decoded transaction at the state
with this step's reset sample used up and, in the busy window, one host step counted; around it the read value is bound,
the host notes the access and goes to its next line. A reading line (log entry 16) runs RD BUF_DATA so while its count is
not reached, staying at the line, and then goes on. -/
def Obligations.StepRunsDecodedTransaction : Prop :=
  ∀ s : State, s.hostMoves = true → (s.session.bound = false ∨ s.meetsDuties = true) →
    let counted : State := { s with
      resets := s.resets.tail
      delay := if s.status.busy then s.delay - 1 else s.delay }
    (∀ (sel : BitVec 9) (data : Word) (bind : Option Nat) (i : Instr),
      s.prog[s.pos]? = some (.bus 32 sel data bind) → decodeBus sel data = .ok i →
      step s =
        match exec i counted with
        | .next t =>
          .next { t with
            pos := t.pos + 1
            vars := match bind with
              | some v => if selIsWrite sel then t.vars else assocSet v t.rdata t.vars
              | none => t.vars
            session := t.session.note i s.status.busy t.rdata }
        | .fault f => .fault f
        | .refused r => .refused r)
    ∧ ∀ (count first : Nat) (n : Word),
      s.prog[s.pos]? = some (.readBytes count first) → assocGet count s.vars = some n →
      (s.session.loop < n.toNat → step s =
        match exec .rdBufData counted with
        | .next t =>
          .next { t with
            vars := assocSet (first + s.session.loop) t.rdata t.vars
            session := { t.session with loop := s.session.loop + 1 } }
        | .fault f => .fault f
        | .refused r => .refused r)
      ∧ (n.toNat ≤ s.session.loop → step s = .next { counted with
          pos := s.pos + 1, session := { s.session with loop := 0 } })

/-- 40_host_bus.md section 1: at a block step, with a legal word pending, step is exec of the decoded command at the
state with this step's reset sample used up, and nothing around it. -/
def Obligations.StepRunsPendingCommand : Prop :=
  ∀ (s : State) (i : Instr), s.blockCompletes = true → decodeCmd s.pend = .ok i →
    step s = exec i { s with resets := s.resets.tail }

/-- Log entry 9 (the model's choice): the instruction that withFetchWord places is the one the very next step runs,
at the state it was placed in: a CMD32 word as the pending command, a BUS9 word as the one line of a host that is not
bound to its duties. -/
def Obligations.PlacedWordIsRunNext : Prop :=
  (∀ (s : State) (w : Word) (i : Instr), decodeCmd w = .ok i →
    step (s.withFetchWord 32 w.toNat) =
      exec i { s with resets := s.resets.tail, pend := w, status := s.status.issued, delay := 0 })
  ∧ ∀ (s : State) (sel : BitVec 9) (i : Instr), decodeBus sel 0 = .ok i →
    ∃ d, step (s.withFetchWord 16 sel.toNat) =
      match exec i { s with
          resets := s.resets.tail, prog := [.bus 32 sel 0 none], pos := 0, delay := d
          session := { s.session with bound := false } } with
      | .next t => .next { t with
          pos := t.pos + 1, session := t.session.note i s.status.busy t.rdata }
      | .fault f => .fault f
      | .refused r => .refused r

/-- R52: an illegal word is issued like any other, and its completion sets ILLCMD with OK = 0 and changes no other
state (BUSY falls, as at every completion; the sample of the reset input is the model's own). -/
def Obligations.IllegalWordRaisesIllcmdOnly : Prop :=
  ∀ w : Word,
    ((∃ i, decodeCmd w = .ok i) ↔
      ((w.setWidth 4).toNat ∈ [1, 2, 3, 4, 5] ∧ w >>> 5 = 0 ∧ (w.getLsbD 4 = false ∨ (w.setWidth 4).toNat = 2)))
    ∧ ((∀ i, decodeCmd w ≠ .ok i) →
      (∀ s : State, s.status.busy = false → ∃ t, exec (.wrCmd w) s = .next t ∧ t.status.busy = true ∧ t.pend = w)
      ∧ ∀ s : State, s.blockCompletes = true → s.pend = w → s.status.noResult = true →
        step s = .next { s with
          resets := s.resets.tail
          status := ⟨false, false, false, false, false, false, true, s.status.busyerr⟩ })

/-- 20_memory.md section 3: a host access that is not a full 32-bit one, or at a misaligned or unmapped offset, is
refused. That the width is looked at first, whatever the selector, and which name a refusal takes is the model's choice
(log entry 11, DESIGN CHOICE). An admitted access of a host that breaks no duty reaches a next state. -/
def Obligations.InadmissibleAccessIsRefused : Prop :=
  ∀ (s : State) (width : Nat) (sel : BitVec 9) (data : Word) (bind : Option Nat),
    s.hostMoves = true → s.prog[s.pos]? = some (.bus width sel data bind) →
    (width ≠ 32 → step s = .refused .accessNotFullWord)
    ∧ (width = 32 → selOffset sel % 4 ≠ 0 → step s = .refused .accessMisaligned)
    ∧ (width = 32 → selOffset sel % 4 = 0 → (∀ r ∈ BusReg.all, selOffset sel ≠ r.offset) →
        step s = .refused .accessUnmapped)
    ∧ (width = 32 → (∃ r ∈ BusReg.all, selOffset sel = r.offset) →
        (s.session.bound = false ∨ s.meetsDuties = true) → ∃ t, step s = .next t)

/-- 30_encoding.md section 6, with the model's own choices: a step for each line (log entry 4), the stops (14), the
dialogue's lines (16), what counts as a report made and a proceed given (13), whose answer it is (17), the order of notices
(21), and a BIT1 with a bit number of 32 or more, which takes the bit as 0 (18, unsafe). A line that makes no bus transaction
touches only the host's place and its dealings with the user. A report shows what the values read call for, and counts as
made where the command's end was seen and the values are the block's; a question uses up an answer, and a proceed is to the
forced decode whose operands the block holds; an export gives out the text of the bytes. -/
def Obligations.HostInternalLinesTouchOnlyTheHost : Prop :=
  ∀ (s : State) (line : HostLine), s.hostMoves = true → s.prog[s.pos]? = some line →
    let counted : State := { s with
      resets := s.resets.tail
      delay := if s.status.busy then s.delay - 1 else s.delay }
    (∀ l, line = .label l → step s = .next { counted with pos := s.pos + 1 })
    ∧ (∀ l p, line = .goto l → s.prog.findIdx? (fun x => x.declares == some l) = some p →
        step s = .next { counted with pos := p })
    ∧ (∀ v n l w, line = .bit1 v n l → assocGet v s.vars = some w → w.getLsbD n = false →
        step s = .next { counted with pos := s.pos + 1 })
    ∧ (∀ v n l w p, line = .bit1 v n l → assocGet v s.vars = some w → w.getLsbD n = true →
        s.prog.findIdx? (fun x => x.declares == some l) = some p → step s = .next { counted with pos := p })
    ∧ (∀ v w, line = .check v w → assocGet v s.vars = some w →
        step s = .next { counted with pos := s.pos + 1 })
    ∧ (∀ v w x, line = .check v w → assocGet v s.vars = some x → x ≠ w →
        step s = .fault (.hostCheckFailed v))
    ∧ (∀ n, line = .tell n → step s = .next { counted with
        pos := s.pos + 1, session := { s.session with shown := s.session.shown ++ [n] } })
    ∧ (∀ v a status adjH, line = .report v a → assocGet v s.vars = some status → assocGet a s.vars = some adjH →
        ∃ b, step s = .next { counted with
            pos := s.pos + 1
            session := { s.session with shown := s.session.shown ++ noticesOf status adjH, reported := b } }
          ∧ (b = true ↔ s.session.reported = true
            ∨ s.session.awaiting = false ∧ noticesOf status adjH = noticesOf s.status.word s.adjH))
    ∧ (∀ l, line = .ask l → s.session.answer = false → step s = .next { counted with
        pos := s.pos + 1
        session := { s.session with
          answers := s.session.answers.tail, asked := s.session.asked + 1, consent := none } })
    ∧ (∀ l p, line = .ask l → s.session.answer = true →
        s.prog.findIdx? (fun x => x.declares == some l) = some p → step s = .next { counted with
          pos := p
          session := { s.session with
            answers := s.session.answers.tail, asked := s.session.asked + 1
            consent := if s.session.awaiting then none else some ⟨s.argA, s.argB, s.bufLen⟩ } })
    ∧ (∀ count first n bytes, line = .output count first → assocGet count s.vars = some n → bytes.length = n.toNat →
        (∀ k (h : k < bytes.length), ∃ w : Word, assocGet (first + k) s.vars = some w ∧ bytes[k] = w.setWidth 8) →
        step s = .next { counted with
          pos := s.pos + 1, session := { s.session with exports := s.session.exports ++ [exportText bytes] } })

/-- Log entry 5 (the model's choice): with BUSY = 0 and no line left the block stays idle, all state kept, but where a host
bound to its duties owes its user a notice (log entry 13). -/
def Obligations.IdleBlockKeepsItsState : Prop :=
  ∀ s : State, s.resetAsserted = false → s.runEnded = true → (s.session.bound = false ∨ s.meetsDuties = true) →
    step s = .next { s with resets := s.resets.tail }

/-! Reset and the invariant -/

/-- R31: the state after reset. Reset BUF is INIT_BUF, a free value, so the clause says only that it is that. -/
def Obligations.ResetStateValues : Prop :=
  State.reset.argA = 0 ∧ State.reset.argB = 0
    ∧ State.reset.status.word = 0
    ∧ State.reset.gridW = 128 ∧ State.reset.gridH = 64 ∧ State.reset.regValue .gridDim = 0x00004080
    ∧ State.reset.adjH = 0 ∧ State.reset.bufLen = 0 ∧ State.reset.bufPtr = 0 ∧ State.reset.pixSel = 0
    ∧ (∀ r c, State.reset.pix r c = false)
    ∧ (∀ i, i < 1024 → State.reset.memRead i = Config.initBuf State.reset.run i)
    ∧ State.reset.status.busy = false

/-- 70_reset_and_hazards.md section 1, 60_exceptions.md section 3: where reset is asserted the step is the reset,
whatever else could move: every piece of block state takes its reset value, a pending command is discarded, and BUF
takes the INIT_BUF of a new run. That the host and its schedule stay is the model's choice (log entry 6). -/
def Obligations.ResetEventTakesPriority : Prop :=
  ∀ s : State, s.resetAsserted = true → ∃ t, step s = .next t
    ∧ t.argA = 0 ∧ t.argB = 0 ∧ t.status.word = 0 ∧ t.status.busy = false ∧ t.pend = 0
    ∧ t.gridW = 128 ∧ t.gridH = 64 ∧ t.adjH = 0 ∧ t.bufLen = 0 ∧ t.bufPtr = 0 ∧ t.pixSel = 0
    ∧ (∀ r c, t.pix r c = false)
    ∧ t.run = s.run + 1
    ∧ (∀ i, i < 1024 → t.memRead i = Config.initBuf (s.run + 1) i)
    ∧ t.prog = s.prog ∧ t.pos = s.pos ∧ t.vars = s.vars ∧ t.session = s.session

/-- The invariant holds after reset. -/
def Obligations.InvariantHoldsAtReset : Prop := State.reset.Inv

/-- 10_state.md sections 2 and 4: the dimensions stay legal, storage outside them stays off, BUF stays canonical,
ADJ_H stays a multiple of 8 and STATUS stays one of the combinations listed, over every step from every such state. -/
def Obligations.EveryStepKeepsTheInvariant : Prop :=
  ∀ s t : State, s.Inv → step s = .next t → t.Inv

/-! Bus writes -/

/-- 40_host_bus.md section 1: while BUSY = 1 each of the eleven writes does nothing but set BUSYERR. -/
def Obligations.BusyWritesOnlySetBusyerr : Prop :=
  ∀ (s : State) (i : Instr), s.status.busy = true → isBusWrite i = true →
    exec i s = .next { s with status := { s.status with busyerr := true } }

/-- R59: WR CMD issues the word where BUSY = 0 and is dropped where BUSY = 1. The delay until the completion is the
model's own (log entry 3). -/
def Obligations.WrCmdIssuesTheWord : Prop :=
  ∀ (s : State) (data : Word),
    (s.status.busy = false → ∃ n rest k, exec (.wrCmd data) s = .next { s with
      pend := data
      status := ⟨true, false, false, false, false, false, false, s.status.busyerr⟩
      delay := n, latencies := rest, draws := k })
    ∧ (s.status.busy = true →
      exec (.wrCmd data) s = .next { s with status := { s.status with busyerr := true } })

/-- R62: WR STATUS clears BUSYERR by data bit 7 where BUSY = 0, changes nothing else, and sets it where BUSY = 1. -/
def Obligations.WrStatusClearsBusyerrByBit7 : Prop :=
  ∀ (s : State) (data : Word), exec (.wrStatus data) s = .next { s with
    status := { s.status with
      busyerr := if s.status.busy then true else s.status.busyerr && !data.getLsbD 7 } }

/-- R64, R66: WR ARG_A and WR ARG_B store all 32 bits where BUSY = 0 and are dropped where BUSY = 1. -/
def Obligations.WrArgStoresAllBits : Prop :=
  ∀ (s : State) (data : Word),
    (s.status.busy = false → exec (.wrArgA data) s = .next { s with argA := data }
      ∧ exec (.wrArgB data) s = .next { s with argB := data })
    ∧ (s.status.busy = true →
      exec (.wrArgA data) s = .next { s with status := { s.status with busyerr := true } }
      ∧ exec (.wrArgB data) s = .next { s with status := { s.status with busyerr := true } })

/-- R69, R71, R81: a write to a read-only register has no effect, but BUSYERR where BUSY = 1. -/
def Obligations.WritesToReadOnlyRegistersHaveNoEffect : Prop :=
  ∀ (s : State) (data : Word) (i : Instr), i ∈ [.wrGridDim data, .wrAdjH data, .wrPixVal data] →
    (s.status.busy = false → exec i s = .next s)
    ∧ (s.status.busy = true → exec i s = .next { s with status := { s.status with busyerr := true } })

/-- R72, R74, R78: BUF_LEN, BUF_PTR and PIX_SEL take data bits 15:0, PIX_SEL as COL 7:0 and ROW 15:8; each is dropped where BUSY = 1. -/
def Obligations.WrHalfRegistersTakeLow16Bits : Prop :=
  ∀ (s : State) (data : Word),
    (s.status.busy = false →
      exec (.wrBufLen data) s = .next { s with bufLen := BitVec.ofNat 16 (data.toNat % 65536) }
      ∧ exec (.wrBufPtr data) s = .next { s with bufPtr := BitVec.ofNat 16 (data.toNat % 65536) }
      ∧ ∃ t, exec (.wrPixSel data) s = .next t
        ∧ t = { s with pixSel := t.pixSel }
        ∧ t.selCol = data.toNat % 256 ∧ t.selRow = data.toNat / 256 % 256)
    ∧ (s.status.busy = true → ∀ i ∈ [.wrBufLen data, .wrBufPtr data, .wrPixSel data],
      exec i s = .next { s with status := { s.status with busyerr := true } })

/-- R75: WR BUF_DATA stores data bits 7:0 at BUF_PTR where that is below 1024, stores nothing else, and advances the
pointer modulo 65536; it is dropped where BUSY = 1. -/
def Obligations.WrBufDataStoresOneByte : Prop :=
  ∀ (s : State) (data : Word),
    (s.status.busy = false → ∃ t, exec (.wrBufData data) s = .next t
      ∧ t = { s with buf := t.buf, bufPtr := t.bufPtr }
      ∧ t.bufPtr.toNat = (s.bufPtr.toNat + 1) % 65536
      ∧ (s.bufPtr.toNat < 1024 → (t.memRead s.bufPtr.toNat).toNat = data.toNat % 256)
      ∧ (∀ a, a ≠ s.bufPtr.toNat → t.memRead a = s.memRead a)
      ∧ (1024 ≤ s.bufPtr.toNat → t.buf = s.buf))
    ∧ (s.status.busy = true →
      exec (.wrBufData data) s = .next { s with status := { s.status with busyerr := true } })

/-! Bus reads -/

/-- R61, R63: RD CMD returns 0 and RD STATUS the eight bits in their places, in every state, changing nothing else. -/
def Obligations.RdCmdAndRdStatusAnswerInEveryState : Prop :=
  ∀ s : State,
    exec .rdCmd s = .next { s with rdata := 0 }
    ∧ ∃ v : Word, exec .rdStatus s = .next { s with rdata := v }
      ∧ v.getLsbD 0 = s.status.busy ∧ v.getLsbD 1 = s.status.ok ∧ v.getLsbD 2 = s.status.valerr
      ∧ v.getLsbD 3 = s.status.lenmm ∧ v.getLsbD 4 = s.status.short ∧ v.getLsbD 5 = s.status.hadj
      ∧ v.getLsbD 6 = s.status.illcmd ∧ v.getLsbD 7 = s.status.busyerr
      ∧ ∀ k, 8 ≤ k → v.getLsbD k = false

/-- R65, R67, R80: RD ARG_A, RD ARG_B and RD PIX_SEL return the register in every state, BUSY or not. -/
def Obligations.RdArgAndPixSelAnswerInEveryState : Prop :=
  ∀ s : State,
    exec .rdArgA s = .next { s with rdata := s.argA }
    ∧ exec .rdArgB s = .next { s with rdata := s.argB }
    ∧ ∃ v : Word, exec .rdPixSel s = .next { s with rdata := v }
      ∧ v.toNat = s.selRow * 256 + s.selCol ∧ s.selRow < 256 ∧ s.selCol < 256

/-- R68, R70, R73, R77: the values of GRID_DIM, ADJ_H, BUF_LEN and BUF_PTR where BUSY = 0 (the dimensions those of a
reachable state). -/
def Obligations.RdDimensionsAndBufferRegisters : Prop :=
  ∀ s : State, s.Inv → s.status.busy = false →
    (∃ v : Word, exec .rdGridDim s = .next { s with rdata := v } ∧ v.toNat = s.gridH * 256 + s.gridW)
    ∧ exec .rdAdjH s = .next { s with rdata := s.adjH }
    ∧ (∃ v : Word, exec .rdBufLen s = .next { s with rdata := v } ∧ v.toNat = s.bufLen.toNat)
    ∧ (∃ v : Word, exec .rdBufPtr s = .next { s with rdata := v } ∧ v.toNat = s.bufPtr.toNat)

/-- 40_host_bus.md section 2: RD BUF_DATA where BUSY = 0 returns the byte at BUF_PTR, 0 at 1024 and above, and advances
the pointer modulo 65536. Where BUSY = 1 the value is a free draw (of which nothing is said) and the pointer stays. -/
def Obligations.RdBufDataFetchesOneByte : Prop :=
  ∀ s : State,
    (s.status.busy = false → ∃ (v : Word) (p : Half), exec .rdBufData s = .next { s with rdata := v, bufPtr := p }
      ∧ p.toNat = (s.bufPtr.toNat + 1) % 65536
      ∧ (s.bufPtr.toNat < 1024 → v.toNat = (s.memRead s.bufPtr.toNat).toNat)
      ∧ (1024 ≤ s.bufPtr.toNat → v = 0))
    ∧ (s.status.busy = true → ∃ v : Word, exec .rdBufData s = .next { s with rdata := v, draws := s.draws + 1 })

/-- R79: RD PIX_VAL where BUSY = 0 returns the selected pixel inside the grid and 0 outside it. -/
def Obligations.RdPixValReadsThePixel : Prop :=
  ∀ s : State, s.status.busy = false → ∃ v : Word, exec .rdPixVal s = .next { s with rdata := v }
    ∧ (s.selRow < s.gridH → s.selCol < s.gridW → v.toNat = if s.pix s.selRow s.selCol then 1 else 0)
    ∧ (s.gridH ≤ s.selRow ∨ s.gridW ≤ s.selCol → v = 0)

/-- 40_host_bus.md section 1: while BUSY = 1 the six reads return a free draw, for every value of it, without another
effect; the draw counter is the model's own. -/
def Obligations.BusyReadsAreFreeDraws : Prop :=
  ∀ (s : State) (i : Instr), s.status.busy = true → isGuardedRead i = true →
    ∃ v : Word, exec i s = .next { s with rdata := v, draws := s.draws + 1 }

/-! Frames -/

/-- 20_memory.md section 3: a read changes no register, flag, pixel or byte; only RD BUF_DATA moves BUF_PTR, and only where BUSY = 0. -/
def Obligations.ReadsChangeNothingButTheAnswer : Prop :=
  ∀ (s t : State) (i : Instr), isBusRead i = true → exec i s = .next t →
    (i ≠ .rdBufData ∨ s.status.busy = true → t = { s with rdata := t.rdata, draws := t.draws })
    ∧ (i = .rdBufData → t = { s with rdata := t.rdata, draws := t.draws, bufPtr := t.bufPtr })
    ∧ (∀ a, t.memRead a = s.memRead a)

/-- 10_state.md section 2: what each bus write leaves alone. GRID, the dimensions, ADJ_H and the result bits stay
(WR CMD clears the result bits); each register changes by its own write alone; a byte of BUF changes by WR BUF_DATA
alone, and there only the byte at BUF_PTR. -/
def Obligations.WritesFrame : Prop :=
  ∀ (s t : State) (i : Instr), isBusWrite i = true → exec i s = .next t →
    t.grid = s.grid ∧ t.gridW = s.gridW ∧ t.gridH = s.gridH ∧ t.adjH = s.adjH
    ∧ t.rdata = s.rdata ∧ t.run = s.run ∧ t.resets = s.resets
    ∧ t.prog = s.prog ∧ t.pos = s.pos ∧ t.vars = s.vars ∧ t.session = s.session
    ∧ ((∀ d, i ≠ .wrCmd d) →
        t.pend = s.pend ∧ t.delay = s.delay ∧ t.latencies = s.latencies ∧ t.draws = s.draws
        ∧ t.status = { s.status with busyerr := t.status.busyerr })
    ∧ ((∀ d, i ≠ .wrArgA d) → t.argA = s.argA)
    ∧ ((∀ d, i ≠ .wrArgB d) → t.argB = s.argB)
    ∧ ((∀ d, i ≠ .wrBufLen d) → t.bufLen = s.bufLen)
    ∧ ((∀ d, i ≠ .wrBufPtr d) → (∀ d, i ≠ .wrBufData d) → t.bufPtr = s.bufPtr)
    ∧ ((∀ d, i ≠ .wrPixSel d) → t.pixSel = s.pixSel)
    ∧ ((∀ d, i ≠ .wrBufData d) → t.buf = s.buf ∧ ∀ a, t.memRead a = s.memRead a)
    ∧ (∀ a, a ≠ s.bufPtr.toNat → t.memRead a = s.memRead a)

/-- 10_state.md section 5: what each command leaves alone. ARG_A, ARG_B, PIX_SEL, PEND and BUSYERR stay; ENCODE keeps
the grid, its dimensions and ADJ_H and changes no byte but those at the indices p*W + c it computes; the others keep
BUF, BUF_LEN and BUF_PTR; TOGGLE and INVERT keep the dimensions and ADJ_H. -/
def Obligations.CommandsFrame : Prop :=
  ∀ (s t : State) (i : Instr), isCommand i = true → exec i s = .next t →
    t.argA = s.argA ∧ t.argB = s.argB ∧ t.pixSel = s.pixSel ∧ t.pend = s.pend
    ∧ t.status.busyerr = s.status.busyerr
    ∧ t.rdata = s.rdata ∧ t.run = s.run ∧ t.draws = s.draws ∧ t.delay = s.delay
    ∧ t.latencies = s.latencies ∧ t.resets = s.resets
    ∧ t.prog = s.prog ∧ t.pos = s.pos ∧ t.vars = s.vars ∧ t.session = s.session
    ∧ (i = .encode → t.grid = s.grid ∧ t.gridW = s.gridW ∧ t.gridH = s.gridH ∧ t.adjH = s.adjH
        ∧ ∀ a, (∀ p c, p < s.gridH / 8 → c < s.gridW → a ≠ packedIndex s.gridW p c) →
          t.memRead a = s.memRead a)
    ∧ (i ≠ .encode → t.buf = s.buf ∧ t.bufLen = s.bufLen ∧ t.bufPtr = s.bufPtr
        ∧ ∀ a, t.memRead a = s.memRead a)
    ∧ (i = .toggle ∨ i = .invert → t.gridW = s.gridW ∧ t.gridH = s.gridH ∧ t.adjH = s.adjH)

/-- 10_state.md section 3, 40_host_bus.md section 1: no bus transaction in the busy window changes what the pending
command reads, nor whether it is pending, nor its result bits. -/
def Obligations.BusyWindowKeepsCommandInputs : Prop :=
  ∀ (s t : State) (i : Instr), s.status.busy = true → isBusRead i = true ∨ isBusWrite i = true →
    exec i s = .next t →
    t.pend = s.pend ∧ t.argA = s.argA ∧ t.argB = s.argB ∧ t.bufLen = s.bufLen ∧ t.bufPtr = s.bufPtr
    ∧ t.gridW = s.gridW ∧ t.gridH = s.gridH ∧ t.grid = s.grid ∧ t.adjH = s.adjH ∧ t.buf = s.buf
    ∧ t.run = s.run ∧ t.status = { s.status with busyerr := t.status.busyerr }

/-! Commands -/

/-- R83: ENCODE completes in every state a run reaches; bit b of the byte at p*W + c is the pixel at row p*8 + b of
column c, no byte at or past the encoded length changes, BUF_LEN is the encoded length, BUF_PTR is 0, and OK is set. -/
def Obligations.EncodePacksTheGrid : Prop :=
  ∀ s : State, s.Inv → ∃ t, exec .encode s = .next t
    ∧ (∀ p c b, p < s.gridH / 8 → c < s.gridW → b < 8 →
        (t.memRead (p * s.gridW + c)).getLsbD b = s.pix (p * 8 + b) c)
    ∧ (∀ a, s.gridH / 8 * s.gridW ≤ a → t.memRead a = s.memRead a)
    ∧ t.bufLen.toNat = s.gridH / 8 * s.gridW
    ∧ t.bufPtr = 0
    ∧ t.status = { s.status with ok := true, busy := false }
    ∧ t = { s with buf := t.buf, bufLen := t.bufLen, bufPtr := t.bufPtr, status := t.status }

/-- R85: after an ENCODE completes, BUF_LEN is (GRID_H/8)*GRID_W. -/
def Obligations.EncodedLengthLaw : Prop :=
  ∀ s t : State, s.Inv → exec .encode s = .next t → t.bufLen.toNat = t.gridH / 8 * t.gridW

/-- R33: every index a command computes lies below 1024: the encoder's, and the decoder's at accepted dimensions. -/
def Obligations.PackedIndicesFitTheBuffer : Prop :=
  (∀ (s : State) (p c : Nat), s.Inv → p < s.gridH / 8 → c < s.gridW →
      packedIndex s.gridW p c = p * s.gridW + c
      ∧ packedIndex s.gridW p c < packedLen s.gridW s.gridH ∧ packedLen s.gridW s.gridH ≤ 1024)
  ∧ (∀ (s u : State) (wreq hreq : Int) (w h p c : Nat), s.checkDims wreq hreq = (u, some (w, h)) →
      p < h / 8 → c < w → packedIndex w p c < packedLen w h ∧ packedLen w h ≤ 1024)
  ∧ packedLen 128 64 = 1024

/-- R84: the three ends of a DECODE whose STATUS bits 6:1 are 0 on entry: VALERR; LENMM with F = 0; and the new
grid, with LENMM and SHORT where the lengths differ. BUF, BUF_LEN and BUF_PTR are never written. -/
def Obligations.DecodeUnpacksTheBuffer : Prop :=
  ∀ (s : State) (force : Bool), s.status.noResult = true →
    let hn := normH s.argB.toInt
    let w := s.argA.toInt.toNat
    let h := hn.toNat
    let e := h / 8 * w
    let l := s.bufLen.toNat
    let adjusted := decide (hn ≠ s.argB.toInt)
    ∃ t, exec (.decode force) s = .next t
      ∧ t.adjH = BitVec.ofInt 32 hn
      ∧ t = { s with
          adjH := t.adjH, status := t.status, grid := t.grid, gridW := t.gridW, gridH := t.gridH }
      ∧ if validDims s.argA.toInt hn = false then
          t.status = ⟨false, false, true, false, false, adjusted, false, s.status.busyerr⟩
          ∧ t.grid = s.grid ∧ t.gridW = s.gridW ∧ t.gridH = s.gridH
        else if l ≠ e ∧ force = false then
          t.status = ⟨false, false, false, true, false, adjusted, false, s.status.busyerr⟩
          ∧ t.grid = s.grid ∧ t.gridW = s.gridW ∧ t.gridH = s.gridH
        else
          t.status = ⟨false, true, false, decide (l ≠ e), decide (l < e), adjusted, false, s.status.busyerr⟩
          ∧ t.gridW = w ∧ t.gridH = h
          ∧ (∀ p c b, p < h / 8 → c < w → b < 8 → t.pix (p * 8 + b) c =
              if p * w + c < l then (s.memRead (p * w + c)).getLsbD b else false)
          ∧ ∀ r c, h ≤ r ∨ w ≤ c → t.pix r c = false

/-- R90: the two ends of a RESIZE whose STATUS bits 6:1 are 0 on entry: VALERR with the grid unchanged, or the new
dimensions with the top-left overlap kept and the rest off. BUF, BUF_LEN and BUF_PTR are untouched. -/
def Obligations.ResizeKeepsTheOverlap : Prop :=
  ∀ s : State, s.Inv → s.status.noResult = true →
    let hn := normH s.argB.toInt
    let adjusted := decide (hn ≠ s.argB.toInt)
    ∃ t, exec .resize s = .next t
      ∧ t.adjH = BitVec.ofInt 32 hn
      ∧ t = { s with
          adjH := t.adjH, status := t.status, grid := t.grid, gridW := t.gridW, gridH := t.gridH }
      ∧ if validDims s.argA.toInt hn = false then
          t.status = ⟨false, false, true, false, false, adjusted, false, s.status.busyerr⟩
          ∧ t.grid = s.grid ∧ t.gridW = s.gridW ∧ t.gridH = s.gridH
        else
          t.status = ⟨false, true, false, false, false, adjusted, false, s.status.busyerr⟩
          ∧ t.gridW = s.argA.toInt.toNat ∧ t.gridH = hn.toNat
          ∧ ∀ r c, t.pix r c =
              if r < min s.gridH t.gridH ∧ c < min s.gridW t.gridW then s.pix r c else false

/-- R92: TOGGLE flips the one pixel where (r, c) is inside the grid, flips none otherwise, and sets OK always. -/
def Obligations.ToggleFlipsOnePixel : Prop :=
  ∀ s : State, s.Inv →
    let r0 := s.argA.toInt
    let c0 := s.argB.toInt
    ∃ t, exec .toggle s = .next t
      ∧ t = { s with grid := t.grid, status := { s.status with ok := true, busy := false } }
      ∧ (0 ≤ r0 → r0 < s.gridH → 0 ≤ c0 → c0 < s.gridW →
          ∀ r c, t.pix r c = if r = r0.toNat ∧ c = c0.toNat then !(s.pix r c) else s.pix r c)
      ∧ (r0 < 0 ∨ (s.gridH : Int) ≤ r0 ∨ c0 < 0 ∨ (s.gridW : Int) ≤ c0 → t.grid = s.grid)

/-- R93: INVERT flips every pixel of the current grid, keeps the cells outside it off, and sets OK. -/
def Obligations.InvertFlipsEveryPixel : Prop :=
  ∀ s : State, s.Inv → ∃ t, exec .invert s = .next t
    ∧ t = { s with grid := t.grid, status := { s.status with ok := true, busy := false } }
    ∧ (∀ r c, r < s.gridH → c < s.gridW → t.pix r c = !(s.pix r c))
    ∧ (∀ r c, s.gridH ≤ r ∨ s.gridW ≤ c → t.pix r c = false)

/-- R94: two INVERTs in a row restore the grid exactly, each completing with STATUS 0x02 (from a state with BUSYERR = 0
and bits 6:1 at 0, as an issue leaves them; `issue` is what WR CMD does between the two). -/
def Obligations.InvertTwiceRestoresTheGrid : Prop :=
  ∀ s : State, s.status.noResult = true → s.status.busyerr = false →
    ∃ t u, exec .invert s = .next t ∧ t.status.word = 0x02
      ∧ exec .invert (t.issue 0x5) = .next u ∧ u.status.word = 0x02
      ∧ u.grid = s.grid ∧ u.gridW = s.gridW ∧ u.gridH = s.gridH

/-- R86: ENCODE and then DECODE at the grid's own dimensions, F = 0 or 1, gives the grid back with STATUS 0x02 (from a
state with BUSYERR = 0 and bits 6:1 at 0; between the two the macro writes ARG_A, ARG_B and CMD). -/
def Obligations.EncodeThenDecodeRestoresTheGrid : Prop :=
  ∀ (s : State) (force : Bool), s.Inv → s.status.noResult = true → s.status.busyerr = false →
    ∃ t t' u, exec .encode s = .next t
      ∧ execAll [.wrArgA (BitVec.ofNat 32 s.gridW), .wrArgB (BitVec.ofNat 32 s.gridH),
          .wrCmd (if force then 0x12 else 0x2)] t = .next t'
      ∧ exec (.decode force) t' = .next u
      ∧ u.grid = s.grid ∧ u.gridW = s.gridW ∧ u.gridH = s.gridH ∧ u.status.word = 0x02

/-- R87: ENCODE after a DECODE with F = 1 that completed with OK reproduces the bytes below min(L, E), writes 0 from L
to E, and sets BUF_LEN = E. -/
def Obligations.DecodeThenEncodeReproducesTheBytes : Prop :=
  ∀ s t : State, exec (.decode true) s = .next t → t.status.ok = true → s.status.ok = false →
    ∃ u, exec .encode (t.issue 0x1) = .next u
      ∧ u.bufLen.toNat = t.gridH / 8 * t.gridW
      ∧ (∀ a, a < min s.bufLen.toNat (t.gridH / 8 * t.gridW) → u.memRead a = s.memRead a)
      ∧ (∀ a, s.bufLen.toNat ≤ a → a < t.gridH / 8 * t.gridW → u.memRead a = 0)

/-! Dimensions and conditions -/

/-- R88: NormH is its pseudocode with floor division, a multiple of 8, different from h exactly where h is none, within
32 bits, and takes the corner values listed. -/
def Obligations.NormHRoundsDownAndClamps : Prop :=
  (∀ h : Int,
    (h % 8 = 0 → normH h = h)
    ∧ (h % 8 ≠ 0 → normH h = if 8 * Int.fdiv h 8 = 0 then 8 else 8 * Int.fdiv h 8)
    ∧ normH h % 8 = 0
    ∧ (normH h ≠ h ↔ h % 8 ≠ 0)
    ∧ (1 ≤ h → h ≤ 7 → normH h = 8)
    ∧ (-2 ^ 31 ≤ h → h < 2 ^ 31 → -2 ^ 31 ≤ 8 * Int.fdiv h 8 ∧ 8 * Int.fdiv h 8 ≤ 2 ^ 31 - 8))
  ∧ [10, 3, 7, 8, 15, 16, 64, 65, 71, 72, 0, -3, -8, 2147483647, -2147483648].map normH
      = [8, 8, 8, 8, 8, 16, 64, 64, 64, 72, 0, -8, -8, 2147483640, -2147483648]

/-- R89: the bounds, and the heights that pass them after normalization. -/
def Obligations.ValidDimensionsAreBounded : Prop :=
  (∀ w h : Int, validDims w h = true ↔ 1 ≤ w ∧ w ≤ 128 ∧ 1 ≤ h ∧ h ≤ 64)
    ∧ ∀ w hreq : Int, validDims w (normH hreq) = true ↔
      1 ≤ w ∧ w ≤ 128 ∧ normH hreq ∈ [8, 16, 24, 32, 40, 48, 56, 64]

/-- R91: CheckDims reports ADJ_H and HADJ whether or not the dimensions pass, then raises VALERR or gives the width as
requested and the normalized height. (`raise` also ends the command, BUSY falling.) -/
def Obligations.CheckDimsReportsThenValidates : Prop :=
  ∀ (s : State) (wreq hreq : Int),
    let hn := normH hreq
    let hadj := s.status.hadj || decide (hn ≠ hreq)
    s.checkDims wreq hreq =
      if validDims wreq hn then
        ({ s with adjH := BitVec.ofInt 32 hn, status := { s.status with hadj := hadj } },
          some (wreq.toNat, hn.toNat))
      else
        ({ s with
            adjH := BitVec.ofInt 32 hn
            status := { s.status with hadj := hadj, valerr := true, busy := false } }, none)

/-- R14: issue clears bits 6:1 and sets BUSY; the completion of a command, legal or not, clears BUSY and leaves one of
the combinations listed, each of which some completion leaves; between the two a read shows BUSY = 1 and bits 6:1 = 0;
a write to STATUS never changes bits 6:0. -/
def Obligations.StatusResultLifecycle : Prop :=
  let combinations : List (Bool × Bool × Bool × Bool × Bool × Bool) := [
    (true, false, false, false, false, false),
    (true, false, false, false, true, false),
    (true, false, true, false, false, false),
    (true, false, true, true, false, false),
    (true, false, true, false, true, false),
    (true, false, true, true, true, false),
    (false, true, false, false, false, false),
    (false, true, false, false, true, false),
    (false, false, true, false, false, false),
    (false, false, true, false, true, false),
    (false, false, false, false, false, true)]
  let bits : Status → Bool × Bool × Bool × Bool × Bool × Bool :=
    fun st => (st.ok, st.valerr, st.lenmm, st.short, st.hadj, st.illcmd)
  (∀ (s : State) (w : Word), s.status.busy = false → ∃ t, exec (.wrCmd w) s = .next t
      ∧ t.status.noResult = true ∧ t.status.busy = true)
  ∧ (∀ s : State, s.Inv → s.blockCompletes = true → ∃ t, step s = .next t
      ∧ t.status.busy = false ∧ bits t.status ∈ combinations)
  ∧ (∀ c ∈ combinations, ∃ s t : State, s.Inv ∧ s.blockCompletes = true ∧ step s = .next t ∧ bits t.status = c)
  ∧ (∀ s : State, s.Inv → s.status.busy = true → ∃ v : Word, exec .rdStatus s = .next { s with rdata := v }
      ∧ v.getLsbD 0 = true ∧ ∀ k, 1 ≤ k → k ≤ 6 → v.getLsbD k = false)
  ∧ (∀ (s t : State) (w : Word), exec (.wrStatus w) s = .next t →
      t.status = { s.status with busyerr := t.status.busyerr })

/-- 60_exceptions.md section 1: the cause code of a condition is its STATUS bit number: recording the condition sets
that bit of the word a read returns, and no other. -/
def Obligations.ConditionCodesAreStatusBits : Prop :=
  ∀ (st : Status) (e : Condition) (k : Nat),
    (st.record e).word.getLsbD k = (st.word.getLsbD k || decide (k = e.code))

/-- R103: a completion with OK = 0 changes nothing but STATUS and, for a legal RESIZE or DECODE, ADJ_H (BUSY and the
sample of the reset input aside). -/
def Obligations.AbortLeavesTheStateUnchanged : Prop :=
  ∀ s t : State, s.Inv → s.blockCompletes = true → step s = .next t → t.status.ok = false →
    t = { s with status := t.status, adjH := t.adjH, resets := s.resets.tail }
    ∧ (t.adjH ≠ s.adjH → decodeCmd s.pend = .ok .resize ∨ ∃ f, decodeCmd s.pend = .ok (.decode f))

/-! Whole-machine rules -/

/-- 10_state.md section 2: in a step without reset BUSYERR rises only by a write in the busy window and falls only by a
write to STATUS with data bit 7 while BUSY = 0. -/
def Obligations.BusyerrIsSticky : Prop :=
  ∀ s t : State, s.resetAsserted = false → step s = .next t →
    (s.status.busyerr = true → t.status.busyerr = false →
      s.status.busy = false ∧ ∃ d : Word, s.hostPerforms (.wrStatus d) ∧ d.getLsbD 7 = true)
    ∧ (s.status.busyerr = false → t.status.busyerr = true →
      s.status.busy = true ∧ ∃ i, s.hostPerforms i ∧ isBusWrite i = true)

/-- 10_state.md section 4: in a step without reset the dimensions change only by a RESIZE or DECODE that completes with
OK, and a pixel only by a DECODE, RESIZE, TOGGLE or INVERT. -/
def Obligations.OnlyGridCommandsChangeTheGrid : Prop :=
  ∀ s t : State, s.resetAsserted = false → step s = .next t →
    (t.gridW ≠ s.gridW ∨ t.gridH ≠ s.gridH →
      t.status.ok = true ∧ (s.blockPerforms .resize ∨ ∃ f, s.blockPerforms (.decode f)))
    ∧ (t.grid ≠ s.grid →
      s.blockPerforms .resize ∨ s.blockPerforms .toggle ∨ s.blockPerforms .invert
        ∨ ∃ f, s.blockPerforms (.decode f))

/-- 10_state.md section 2: in a step without reset ARG_A, ARG_B and PIX_SEL change only by the host's own write to them
while BUSY = 0, and ADJ_H only by a RESIZE or DECODE. -/
def Obligations.OnlyTheirOwnersChangeTheRegisters : Prop :=
  ∀ s t : State, s.resetAsserted = false → step s = .next t →
    (t.argA ≠ s.argA → s.status.busy = false ∧ s.hostPerforms (.wrArgA t.argA))
    ∧ (t.argB ≠ s.argB → s.status.busy = false ∧ s.hostPerforms (.wrArgB t.argB))
    ∧ (t.pixSel ≠ s.pixSel → s.status.busy = false ∧ ∃ d, s.hostPerforms (.wrPixSel d))
    ∧ (t.adjH ≠ s.adjH → s.blockPerforms .resize ∨ ∃ f, s.blockPerforms (.decode f))

/-- 10_state.md sections 2 and 4: in a step without reset a byte of BUF changes only by ENCODE, below the encoded length, or
by the host's write of BUF_DATA at BUF_PTR; BUF_PTR only by those two, a read of BUF_DATA or a write of BUF_PTR; and
BUF_LEN only by ENCODE or the host's write of BUF_LEN. Each host access does so only while BUSY = 0. -/
def Obligations.OnlyEncodeAndThePortWriteTheBuffer : Prop :=
  ∀ s t : State, s.resetAsserted = false → step s = .next t →
    (∀ a, t.memRead a ≠ s.memRead a →
      (s.blockPerforms .encode ∧ a < s.gridH / 8 * s.gridW)
        ∨ (s.status.busy = false ∧ a = s.bufPtr.toNat ∧ ∃ d, s.hostPerforms (.wrBufData d)))
    ∧ (t.bufPtr ≠ s.bufPtr →
      s.blockPerforms .encode
        ∨ s.status.busy = false ∧ (s.hostPerforms .rdBufData
          ∨ (∃ d, s.hostPerforms (.wrBufData d)) ∨ ∃ d, s.hostPerforms (.wrBufPtr d)))
    ∧ (t.bufLen ≠ s.bufLen →
      s.blockPerforms .encode
        ∨ s.status.busy = false ∧ ∃ d, s.hostPerforms (.wrBufLen d) ∧ t.bufLen = d.setWidth 16)

/-- 70_reset_and_hazards.md section 2, the busy window of the wait rule: a host step that is no write and no read of the six
registers in the busy window sets no BUSYERR and draws no unspecified value; one that is sets BUSYERR or draws. (The rule
itself asks the host to poll STATUS first: BoundHostBreaksNoDuty. A host that does not, and comes after the completion,
meets no hazard.) -/
def Obligations.WaitRuleAvoidsTheHazard : Prop :=
  ∀ s t : State, s.hostMoves = true → step s = .next t →
    (s.meetsWaitRule = true → s.status.busyerr = false → t.status.busyerr = false)
    ∧ (s.meetsWaitRule = true → s.status.busy = true → t.draws = s.draws)
    ∧ (s.meetsWaitRule = false → t.status.busyerr = true ∨ t.draws = s.draws + 1)

/-- 70_reset_and_hazards.md section 3 (with log entry 3, the model's form of T_CMD): a pending command completes after
finitely many host steps: within `delay + 1` steps free of reset and of the host's own stops. -/
def Obligations.PendingCommandCompletes : Prop :=
  ∀ s t : State, s.status.busy = true → (∀ b ∈ s.resets, b = false) →
    Host.Core.run core (s.delay + 1) s = .next t →
    ∃ k u, k ≤ s.delay + 1 ∧ Host.Core.run core k s = .next u ∧ u.status.busy = false

/-! The host's procedures -/

/-- 30_encoding.md section 6 and 47_host_text_formats.md section 2: a pointer write of 0, a write of BUF_DATA for each
byte and a write of BUF_LEN leave the bytes in BUF in order (those past 1024 dropped) and their count in BUF_LEN. -/
def Obligations.LoadingTheBufferStoresTheBytes : Prop :=
  ∀ (s : State) (bytes : List Byte), s.status.busy = false → bytes.length < 65536 →
    ∃ t, execAll (.wrBufPtr 0 :: bytes.map (fun b => .wrBufData (b.setWidth 32))
        ++ [.wrBufLen (BitVec.ofNat 32 bytes.length)]) s = .next t
      ∧ t.bufLen.toNat = bytes.length ∧ t.bufPtr.toNat = bytes.length
      ∧ (∀ a (h : a < bytes.length), a < 1024 → t.memRead a = bytes[a])
      ∧ (∀ a, bytes.length ≤ a → t.memRead a = s.memRead a)
      ∧ t.grid = s.grid ∧ t.status = s.status ∧ t.argA = s.argA ∧ t.argB = s.argB

/-- 47_host_text_formats.md section 2: the export text of any bytes scans back to exactly its bytes. -/
def Obligations.ExportTextScansBackToItsBytes : Prop :=
  ∀ bytes : List Byte, bytes ≠ [] → scanTokens (exportText bytes) = bytes

/-- 47_host_text_formats.md section 2: what an import comes to. A text without a token is malformed: the host's lines are
its message alone. Else it follows the STATUS and ADJ_H a completed DECODE leaves, over the DECODE itself: an accepted
decode is done, a VALERR shows an error, a refusal for the length asks the user; and each end shows the adjusted height
where HADJ is set, and VALERR, LENMM and SHORT where they are. The order of the notices in each list is the model's choice
(log entry 21, DESIGN CHOICE, unsafe), and so is the line that shows the message of a malformed text (log entry 16). -/
def Obligations.ImportReportFollowsDecode : Prop :=
  (∀ (s t : State) (force : Bool) (tokens : List Byte), tokens ≠ [] → s.status.noResult = true →
    exec (.decode force) s = .next t →
    let shown : List Notice :=
      (if t.status.hadj then [.adjustedHeight t.adjH] else [])
        ++ (if t.status.valerr then [.validationError] else [])
        ++ (if t.status.lenmm then [.lengthMismatch] else [])
        ++ (if t.status.short then [.shortBuffer] else [])
    (t.status.ok = true → importReport tokens t.status.word t.adjH = .done shown)
    ∧ (t.status.valerr = true → importReport tokens t.status.word t.adjH = .validationError shown ∧ t.grid = s.grid)
    ∧ (t.status.ok = false → t.status.lenmm = true →
        importReport tokens t.status.word t.adjH = .askUser shown ∧ t.grid = s.grid ∧ force = false)
    ∧ importReport tokens t.status.word t.adjH ≠ .noReport)
  ∧ ∀ text : List Char, scanTokens text = [] →
    (∀ w h l v, importLines text w h l v = [.tell .malformedInput])
    ∧ ∀ status adjH, importReport (scanTokens text) status adjH = .malformed

/-- R57: a WR line is the pair (256 + offset, value mod 2^32) and an RD line the selector offset, with the rule's examples. -/
def Obligations.HostLinesEncodeAsPairs : Prop :=
  (∀ (r : BusReg) (v : Int), HostLine.wr r v = .bus 32 (BitVec.ofNat 9 (256 + r.offset)) (BitVec.ofInt 32 v) none)
    ∧ (∀ (r : BusReg) (x : Option Nat), ∃ d, HostLine.rd r x = .bus 32 (BitVec.ofNat 9 r.offset) d x)
    ∧ HostLine.wr .argA (-3) = .bus 32 0x108 0xFFFFFFFD none
    ∧ HostLine.wr .cmd 0x12 = .bus 32 0x100 0x00000012 none
    ∧ (∃ d, HostLine.rd .status none = .bus 32 0x004 d none)

/-- 95_test_vectors.md L1-8, HT3, HT4, HT5, HT6 and HT7: the written-out texts of the host's formats, in full (the braces
are the characters 0x7B and 0x7D). -/
def Obligations.HostTextVectors : Prop :=
  exportText [0x00, 0xFF] = [
      'c', 'o', 'n', 's', 't', ' ', 'u', 'i', 'n', 't', '8', '_', 't', ' ', 'b', 'i', 't', 'm', 'a', 'p',
      'D', 'a', 't', 'a', '[', ']', ' ', '=', ' ', Char.ofNat 0x7B, '\n',
      '0', 'x', '0', '0', ',', ' ', '0', 'x', 'f', 'f', '\n', Char.ofNat 0x7D, ';']
    ∧ exportText [0x0A] = [
      'c', 'o', 'n', 's', 't', ' ', 'u', 'i', 'n', 't', '8', '_', 't', ' ', 'b', 'i', 't', 'm', 'a', 'p',
      'D', 'a', 't', 'a', '[', ']', ' ', '=', ' ', Char.ofNat 0x7B, '\n',
      '0', 'x', '0', 'a', '\n', Char.ofNat 0x7D, ';']
    ∧ scanTokens [Char.ofNat 0x7B, '0', 'x', '1', ',', ' ', '0', 'X', 'F', 'F', ',', ' ', '0', 'x', 'A', 'b',
        Char.ofNat 0x7D] = [0x01, 0xAB]
    ∧ scanTokens ['0', 'x', '1', '2', '3', ' ', '/', '/', ' ', '0', 'x', 'g'] = [0x12]
    ∧ scanTokens [
      'c', 'o', 'n', 's', 't', ' ', 'u', 'i', 'n', 't', '8', '_', 't', ' ', 'b', 'i', 't', 'm', 'a', 'p',
      'D', 'a', 't', 'a', '[', ']', ' ', '=', ' ', Char.ofNat 0x7B, '\n',
      '0', 'x', '0', '0', ',', ' ', '0', 'x', 'f', 'f', '\n', Char.ofNat 0x7D, ';'] = [0x00, 0xFF]
    ∧ malformedInput ['n', 'o', ' ', 't', 'o', 'k', 'e', 'n', 's', ' ', 'h', 'e', 'r', 'e'] = true

/-- 60_exceptions.md section 6 (with the model's choices: log entry 13, the form of the duties, with by when and by
which line notices must be shown; 16, the lines that ask and report; 17, whose answer it is): over a step of a host
bound to its duties that awaits the end of any pending command. It makes no write and no read of the six registers
until a STATUS read has shown BUSY = 0, though the command have completed; no write is dropped, and no unspecified
value drawn while BUSY = 1; a command word is written, and an ended program idles, only where the last command's
notices have been shown; a command word only where none is pending and, for DECODE.F, the host has seen no refusal for
the length or the user has said proceed to the forced decode of this buffer at these dimensions; a refusal once seen is
never forgotten; a proceed comes only from the user's answer, and is dropped by every command and every load; and
notices count as shown only once the user has been shown every one that the block's STATUS calls for. -/
def Obligations.BoundHostBreaksNoDuty : Prop :=
  ∀ s t : State, s.session.bound = true → (s.status.busy = true → s.session.awaiting = true) → step s = .next t →
    t.session.bound = true
    ∧ (∀ i, s.hostPerforms i → s.session.awaiting = true → isBusWrite i = false ∧ isGuardedRead i = false)
    ∧ (s.hostMoves = true → s.hostDone = true →
        s.session.reported = true ∨ noticesOf s.status.word s.adjH = [])
    ∧ (s.hostMoves = true → s.status.busyerr = false → t.status.busyerr = false)
    ∧ (s.hostMoves = true → s.status.busy = true → t.draws = s.draws)
    ∧ (∀ w, s.hostPerforms (.wrCmd w) →
        s.status.busy = false
        ∧ (s.session.reported = true ∨ noticesOf s.status.word s.adjH = [])
        ∧ (decodeCmd w = .ok (.decode true) → s.session.refused = true →
            s.session.consent = some ⟨s.argA, s.argB, s.bufLen⟩)
        ∧ t.session.consent = none)
    ∧ (s.session.refused = true → t.session.refused = true)
    ∧ (s.hostPerforms .rdStatus → s.status.busy = false → s.status.lenmm = true → s.status.ok = false →
        t.session.refused = true)
    ∧ (∀ c, t.session.consent = some c → s.session.consent = some c
        ∨ (s.hostMoves = true ∧ (∃ l, s.prog[s.pos]? = some (.ask l)) ∧ s.session.answer = true
          ∧ s.session.awaiting = false ∧ c = ⟨s.argA, s.argB, s.bufLen⟩))
    ∧ (∀ d, s.hostPerforms (.wrBufData d) ∨ s.hostPerforms (.wrBufLen d) → t.session.consent = none)
    ∧ (s.session.reported = false → t.session.reported = true →
        ∀ n ∈ noticesOf s.status.word s.adjH, n ∈ t.session.shown)
end

