-- ==== Sys2Proof/Laws/State.lean ====
section
/-! SUPPORT. One lemma for each field of State under each named update, and the small lemmas of STATUS. -/
namespace Sys2Proof.Machine

@[simp] theorem State.replaceGrid_argA (s : State) (g : Grid) (w h : Nat) : (s.replaceGrid g w h).argA = s.argA := rfl
@[simp] theorem State.replaceGrid_argB (s : State) (g : Grid) (w h : Nat) : (s.replaceGrid g w h).argB = s.argB := rfl
@[simp] theorem State.replaceGrid_status (s : State) (g : Grid) (w h : Nat) : (s.replaceGrid g w h).status = s.status := rfl
@[simp] theorem State.replaceGrid_gridW (s : State) (g : Grid) (w h : Nat) : (s.replaceGrid g w h).gridW = w := rfl
@[simp] theorem State.replaceGrid_gridH (s : State) (g : Grid) (w h : Nat) : (s.replaceGrid g w h).gridH = h := rfl
@[simp] theorem State.replaceGrid_adjH (s : State) (g : Grid) (w h : Nat) : (s.replaceGrid g w h).adjH = s.adjH := rfl
@[simp] theorem State.replaceGrid_bufLen (s : State) (g : Grid) (w h : Nat) : (s.replaceGrid g w h).bufLen = s.bufLen := rfl
@[simp] theorem State.replaceGrid_bufPtr (s : State) (g : Grid) (w h : Nat) : (s.replaceGrid g w h).bufPtr = s.bufPtr := rfl
@[simp] theorem State.replaceGrid_pixSel (s : State) (g : Grid) (w h : Nat) : (s.replaceGrid g w h).pixSel = s.pixSel := rfl
@[simp] theorem State.replaceGrid_grid (s : State) (g : Grid) (w h : Nat) : (s.replaceGrid g w h).grid = g := rfl
@[simp] theorem State.replaceGrid_buf (s : State) (g : Grid) (w h : Nat) : (s.replaceGrid g w h).buf = s.buf := rfl
@[simp] theorem State.replaceGrid_pend (s : State) (g : Grid) (w h : Nat) : (s.replaceGrid g w h).pend = s.pend := rfl
@[simp] theorem State.replaceGrid_rdata (s : State) (g : Grid) (w h : Nat) : (s.replaceGrid g w h).rdata = s.rdata := rfl
@[simp] theorem State.replaceGrid_run (s : State) (g : Grid) (w h : Nat) : (s.replaceGrid g w h).run = s.run := rfl
@[simp] theorem State.replaceGrid_draws (s : State) (g : Grid) (w h : Nat) : (s.replaceGrid g w h).draws = s.draws := rfl
@[simp] theorem State.replaceGrid_delay (s : State) (g : Grid) (w h : Nat) : (s.replaceGrid g w h).delay = s.delay := rfl
@[simp] theorem State.replaceGrid_latencies (s : State) (g : Grid) (w h : Nat) : (s.replaceGrid g w h).latencies = s.latencies := rfl
@[simp] theorem State.replaceGrid_resets (s : State) (g : Grid) (w h : Nat) : (s.replaceGrid g w h).resets = s.resets := rfl
@[simp] theorem State.replaceGrid_prog (s : State) (g : Grid) (w h : Nat) : (s.replaceGrid g w h).prog = s.prog := rfl
@[simp] theorem State.replaceGrid_pos (s : State) (g : Grid) (w h : Nat) : (s.replaceGrid g w h).pos = s.pos := rfl
@[simp] theorem State.replaceGrid_vars (s : State) (g : Grid) (w h : Nat) : (s.replaceGrid g w h).vars = s.vars := rfl
@[simp] theorem State.replaceGrid_session (s : State) (g : Grid) (w h : Nat) : (s.replaceGrid g w h).session = s.session := rfl

@[simp] theorem State.warn_argA (s : State) (e : Condition) : (s.warn e).argA = s.argA := rfl
@[simp] theorem State.warn_argB (s : State) (e : Condition) : (s.warn e).argB = s.argB := rfl
@[simp] theorem State.warn_status (s : State) (e : Condition) : (s.warn e).status = s.status.record e := rfl
@[simp] theorem State.warn_gridW (s : State) (e : Condition) : (s.warn e).gridW = s.gridW := rfl
@[simp] theorem State.warn_gridH (s : State) (e : Condition) : (s.warn e).gridH = s.gridH := rfl
@[simp] theorem State.warn_adjH (s : State) (e : Condition) : (s.warn e).adjH = s.adjH := rfl
@[simp] theorem State.warn_bufLen (s : State) (e : Condition) : (s.warn e).bufLen = s.bufLen := rfl
@[simp] theorem State.warn_bufPtr (s : State) (e : Condition) : (s.warn e).bufPtr = s.bufPtr := rfl
@[simp] theorem State.warn_pixSel (s : State) (e : Condition) : (s.warn e).pixSel = s.pixSel := rfl
@[simp] theorem State.warn_grid (s : State) (e : Condition) : (s.warn e).grid = s.grid := rfl
@[simp] theorem State.warn_buf (s : State) (e : Condition) : (s.warn e).buf = s.buf := rfl
@[simp] theorem State.warn_pend (s : State) (e : Condition) : (s.warn e).pend = s.pend := rfl
@[simp] theorem State.warn_rdata (s : State) (e : Condition) : (s.warn e).rdata = s.rdata := rfl
@[simp] theorem State.warn_run (s : State) (e : Condition) : (s.warn e).run = s.run := rfl
@[simp] theorem State.warn_draws (s : State) (e : Condition) : (s.warn e).draws = s.draws := rfl
@[simp] theorem State.warn_delay (s : State) (e : Condition) : (s.warn e).delay = s.delay := rfl
@[simp] theorem State.warn_latencies (s : State) (e : Condition) : (s.warn e).latencies = s.latencies := rfl
@[simp] theorem State.warn_resets (s : State) (e : Condition) : (s.warn e).resets = s.resets := rfl
@[simp] theorem State.warn_prog (s : State) (e : Condition) : (s.warn e).prog = s.prog := rfl
@[simp] theorem State.warn_pos (s : State) (e : Condition) : (s.warn e).pos = s.pos := rfl
@[simp] theorem State.warn_vars (s : State) (e : Condition) : (s.warn e).vars = s.vars := rfl
@[simp] theorem State.warn_session (s : State) (e : Condition) : (s.warn e).session = s.session := rfl

@[simp] theorem State.endCommand_argA (s : State) : (s.endCommand).argA = s.argA := rfl
@[simp] theorem State.endCommand_argB (s : State) : (s.endCommand).argB = s.argB := rfl
@[simp] theorem State.endCommand_status (s : State) : (s.endCommand).status = s.status.ended := rfl
@[simp] theorem State.endCommand_gridW (s : State) : (s.endCommand).gridW = s.gridW := rfl
@[simp] theorem State.endCommand_gridH (s : State) : (s.endCommand).gridH = s.gridH := rfl
@[simp] theorem State.endCommand_adjH (s : State) : (s.endCommand).adjH = s.adjH := rfl
@[simp] theorem State.endCommand_bufLen (s : State) : (s.endCommand).bufLen = s.bufLen := rfl
@[simp] theorem State.endCommand_bufPtr (s : State) : (s.endCommand).bufPtr = s.bufPtr := rfl
@[simp] theorem State.endCommand_pixSel (s : State) : (s.endCommand).pixSel = s.pixSel := rfl
@[simp] theorem State.endCommand_grid (s : State) : (s.endCommand).grid = s.grid := rfl
@[simp] theorem State.endCommand_buf (s : State) : (s.endCommand).buf = s.buf := rfl
@[simp] theorem State.endCommand_pend (s : State) : (s.endCommand).pend = s.pend := rfl
@[simp] theorem State.endCommand_rdata (s : State) : (s.endCommand).rdata = s.rdata := rfl
@[simp] theorem State.endCommand_run (s : State) : (s.endCommand).run = s.run := rfl
@[simp] theorem State.endCommand_draws (s : State) : (s.endCommand).draws = s.draws := rfl
@[simp] theorem State.endCommand_delay (s : State) : (s.endCommand).delay = s.delay := rfl
@[simp] theorem State.endCommand_latencies (s : State) : (s.endCommand).latencies = s.latencies := rfl
@[simp] theorem State.endCommand_resets (s : State) : (s.endCommand).resets = s.resets := rfl
@[simp] theorem State.endCommand_prog (s : State) : (s.endCommand).prog = s.prog := rfl
@[simp] theorem State.endCommand_pos (s : State) : (s.endCommand).pos = s.pos := rfl
@[simp] theorem State.endCommand_vars (s : State) : (s.endCommand).vars = s.vars := rfl
@[simp] theorem State.endCommand_session (s : State) : (s.endCommand).session = s.session := rfl

@[simp] theorem State.raise_argA (s : State) (e : Condition) : (s.raise e).argA = s.argA := rfl
@[simp] theorem State.raise_argB (s : State) (e : Condition) : (s.raise e).argB = s.argB := rfl
@[simp] theorem State.raise_status (s : State) (e : Condition) : (s.raise e).status = (s.status.record e).ended := rfl
@[simp] theorem State.raise_gridW (s : State) (e : Condition) : (s.raise e).gridW = s.gridW := rfl
@[simp] theorem State.raise_gridH (s : State) (e : Condition) : (s.raise e).gridH = s.gridH := rfl
@[simp] theorem State.raise_adjH (s : State) (e : Condition) : (s.raise e).adjH = s.adjH := rfl
@[simp] theorem State.raise_bufLen (s : State) (e : Condition) : (s.raise e).bufLen = s.bufLen := rfl
@[simp] theorem State.raise_bufPtr (s : State) (e : Condition) : (s.raise e).bufPtr = s.bufPtr := rfl
@[simp] theorem State.raise_pixSel (s : State) (e : Condition) : (s.raise e).pixSel = s.pixSel := rfl
@[simp] theorem State.raise_grid (s : State) (e : Condition) : (s.raise e).grid = s.grid := rfl
@[simp] theorem State.raise_buf (s : State) (e : Condition) : (s.raise e).buf = s.buf := rfl
@[simp] theorem State.raise_pend (s : State) (e : Condition) : (s.raise e).pend = s.pend := rfl
@[simp] theorem State.raise_rdata (s : State) (e : Condition) : (s.raise e).rdata = s.rdata := rfl
@[simp] theorem State.raise_run (s : State) (e : Condition) : (s.raise e).run = s.run := rfl
@[simp] theorem State.raise_draws (s : State) (e : Condition) : (s.raise e).draws = s.draws := rfl
@[simp] theorem State.raise_delay (s : State) (e : Condition) : (s.raise e).delay = s.delay := rfl
@[simp] theorem State.raise_latencies (s : State) (e : Condition) : (s.raise e).latencies = s.latencies := rfl
@[simp] theorem State.raise_resets (s : State) (e : Condition) : (s.raise e).resets = s.resets := rfl
@[simp] theorem State.raise_prog (s : State) (e : Condition) : (s.raise e).prog = s.prog := rfl
@[simp] theorem State.raise_pos (s : State) (e : Condition) : (s.raise e).pos = s.pos := rfl
@[simp] theorem State.raise_vars (s : State) (e : Condition) : (s.raise e).vars = s.vars := rfl
@[simp] theorem State.raise_session (s : State) (e : Condition) : (s.raise e).session = s.session := rfl

@[simp] theorem State.succeed_argA (s : State) : (s.succeed).argA = s.argA := rfl
@[simp] theorem State.succeed_argB (s : State) : (s.succeed).argB = s.argB := rfl
@[simp] theorem State.succeed_status (s : State) : (s.succeed).status = s.status.succeeded := rfl
@[simp] theorem State.succeed_gridW (s : State) : (s.succeed).gridW = s.gridW := rfl
@[simp] theorem State.succeed_gridH (s : State) : (s.succeed).gridH = s.gridH := rfl
@[simp] theorem State.succeed_adjH (s : State) : (s.succeed).adjH = s.adjH := rfl
@[simp] theorem State.succeed_bufLen (s : State) : (s.succeed).bufLen = s.bufLen := rfl
@[simp] theorem State.succeed_bufPtr (s : State) : (s.succeed).bufPtr = s.bufPtr := rfl
@[simp] theorem State.succeed_pixSel (s : State) : (s.succeed).pixSel = s.pixSel := rfl
@[simp] theorem State.succeed_grid (s : State) : (s.succeed).grid = s.grid := rfl
@[simp] theorem State.succeed_buf (s : State) : (s.succeed).buf = s.buf := rfl
@[simp] theorem State.succeed_pend (s : State) : (s.succeed).pend = s.pend := rfl
@[simp] theorem State.succeed_rdata (s : State) : (s.succeed).rdata = s.rdata := rfl
@[simp] theorem State.succeed_run (s : State) : (s.succeed).run = s.run := rfl
@[simp] theorem State.succeed_draws (s : State) : (s.succeed).draws = s.draws := rfl
@[simp] theorem State.succeed_delay (s : State) : (s.succeed).delay = s.delay := rfl
@[simp] theorem State.succeed_latencies (s : State) : (s.succeed).latencies = s.latencies := rfl
@[simp] theorem State.succeed_resets (s : State) : (s.succeed).resets = s.resets := rfl
@[simp] theorem State.succeed_prog (s : State) : (s.succeed).prog = s.prog := rfl
@[simp] theorem State.succeed_pos (s : State) : (s.succeed).pos = s.pos := rfl
@[simp] theorem State.succeed_vars (s : State) : (s.succeed).vars = s.vars := rfl
@[simp] theorem State.succeed_session (s : State) : (s.succeed).session = s.session := rfl

@[simp] theorem State.answer_argA (s : State) (v : Word) : (s.answer v).argA = s.argA := rfl
@[simp] theorem State.answer_argB (s : State) (v : Word) : (s.answer v).argB = s.argB := rfl
@[simp] theorem State.answer_status (s : State) (v : Word) : (s.answer v).status = s.status := rfl
@[simp] theorem State.answer_gridW (s : State) (v : Word) : (s.answer v).gridW = s.gridW := rfl
@[simp] theorem State.answer_gridH (s : State) (v : Word) : (s.answer v).gridH = s.gridH := rfl
@[simp] theorem State.answer_adjH (s : State) (v : Word) : (s.answer v).adjH = s.adjH := rfl
@[simp] theorem State.answer_bufLen (s : State) (v : Word) : (s.answer v).bufLen = s.bufLen := rfl
@[simp] theorem State.answer_bufPtr (s : State) (v : Word) : (s.answer v).bufPtr = s.bufPtr := rfl
@[simp] theorem State.answer_pixSel (s : State) (v : Word) : (s.answer v).pixSel = s.pixSel := rfl
@[simp] theorem State.answer_grid (s : State) (v : Word) : (s.answer v).grid = s.grid := rfl
@[simp] theorem State.answer_buf (s : State) (v : Word) : (s.answer v).buf = s.buf := rfl
@[simp] theorem State.answer_pend (s : State) (v : Word) : (s.answer v).pend = s.pend := rfl
@[simp] theorem State.answer_rdata (s : State) (v : Word) : (s.answer v).rdata = v := rfl
@[simp] theorem State.answer_run (s : State) (v : Word) : (s.answer v).run = s.run := rfl
@[simp] theorem State.answer_draws (s : State) (v : Word) : (s.answer v).draws = s.draws := rfl
@[simp] theorem State.answer_delay (s : State) (v : Word) : (s.answer v).delay = s.delay := rfl
@[simp] theorem State.answer_latencies (s : State) (v : Word) : (s.answer v).latencies = s.latencies := rfl
@[simp] theorem State.answer_resets (s : State) (v : Word) : (s.answer v).resets = s.resets := rfl
@[simp] theorem State.answer_prog (s : State) (v : Word) : (s.answer v).prog = s.prog := rfl
@[simp] theorem State.answer_pos (s : State) (v : Word) : (s.answer v).pos = s.pos := rfl
@[simp] theorem State.answer_vars (s : State) (v : Word) : (s.answer v).vars = s.vars := rfl
@[simp] theorem State.answer_session (s : State) (v : Word) : (s.answer v).session = s.session := rfl

@[simp] theorem State.answerDraw_argA (s : State) : (s.answerDraw).argA = s.argA := rfl
@[simp] theorem State.answerDraw_argB (s : State) : (s.answerDraw).argB = s.argB := rfl
@[simp] theorem State.answerDraw_status (s : State) : (s.answerDraw).status = s.status := rfl
@[simp] theorem State.answerDraw_gridW (s : State) : (s.answerDraw).gridW = s.gridW := rfl
@[simp] theorem State.answerDraw_gridH (s : State) : (s.answerDraw).gridH = s.gridH := rfl
@[simp] theorem State.answerDraw_adjH (s : State) : (s.answerDraw).adjH = s.adjH := rfl
@[simp] theorem State.answerDraw_bufLen (s : State) : (s.answerDraw).bufLen = s.bufLen := rfl
@[simp] theorem State.answerDraw_bufPtr (s : State) : (s.answerDraw).bufPtr = s.bufPtr := rfl
@[simp] theorem State.answerDraw_pixSel (s : State) : (s.answerDraw).pixSel = s.pixSel := rfl
@[simp] theorem State.answerDraw_grid (s : State) : (s.answerDraw).grid = s.grid := rfl
@[simp] theorem State.answerDraw_buf (s : State) : (s.answerDraw).buf = s.buf := rfl
@[simp] theorem State.answerDraw_pend (s : State) : (s.answerDraw).pend = s.pend := rfl
@[simp] theorem State.answerDraw_rdata (s : State) : (s.answerDraw).rdata = Config.busyRead s.draws := rfl
@[simp] theorem State.answerDraw_run (s : State) : (s.answerDraw).run = s.run := rfl
@[simp] theorem State.answerDraw_draws (s : State) : (s.answerDraw).draws = s.draws + 1 := rfl
@[simp] theorem State.answerDraw_delay (s : State) : (s.answerDraw).delay = s.delay := rfl
@[simp] theorem State.answerDraw_latencies (s : State) : (s.answerDraw).latencies = s.latencies := rfl
@[simp] theorem State.answerDraw_resets (s : State) : (s.answerDraw).resets = s.resets := rfl
@[simp] theorem State.answerDraw_prog (s : State) : (s.answerDraw).prog = s.prog := rfl
@[simp] theorem State.answerDraw_pos (s : State) : (s.answerDraw).pos = s.pos := rfl
@[simp] theorem State.answerDraw_vars (s : State) : (s.answerDraw).vars = s.vars := rfl
@[simp] theorem State.answerDraw_session (s : State) : (s.answerDraw).session = s.session := rfl

@[simp] theorem State.advancePtr_argA (s : State) : (s.advancePtr).argA = s.argA := rfl
@[simp] theorem State.advancePtr_argB (s : State) : (s.advancePtr).argB = s.argB := rfl
@[simp] theorem State.advancePtr_status (s : State) : (s.advancePtr).status = s.status := rfl
@[simp] theorem State.advancePtr_gridW (s : State) : (s.advancePtr).gridW = s.gridW := rfl
@[simp] theorem State.advancePtr_gridH (s : State) : (s.advancePtr).gridH = s.gridH := rfl
@[simp] theorem State.advancePtr_adjH (s : State) : (s.advancePtr).adjH = s.adjH := rfl
@[simp] theorem State.advancePtr_bufLen (s : State) : (s.advancePtr).bufLen = s.bufLen := rfl
@[simp] theorem State.advancePtr_bufPtr (s : State) : (s.advancePtr).bufPtr = s.bufPtr + 1 := rfl
@[simp] theorem State.advancePtr_pixSel (s : State) : (s.advancePtr).pixSel = s.pixSel := rfl
@[simp] theorem State.advancePtr_grid (s : State) : (s.advancePtr).grid = s.grid := rfl
@[simp] theorem State.advancePtr_buf (s : State) : (s.advancePtr).buf = s.buf := rfl
@[simp] theorem State.advancePtr_pend (s : State) : (s.advancePtr).pend = s.pend := rfl
@[simp] theorem State.advancePtr_rdata (s : State) : (s.advancePtr).rdata = s.rdata := rfl
@[simp] theorem State.advancePtr_run (s : State) : (s.advancePtr).run = s.run := rfl
@[simp] theorem State.advancePtr_draws (s : State) : (s.advancePtr).draws = s.draws := rfl
@[simp] theorem State.advancePtr_delay (s : State) : (s.advancePtr).delay = s.delay := rfl
@[simp] theorem State.advancePtr_latencies (s : State) : (s.advancePtr).latencies = s.latencies := rfl
@[simp] theorem State.advancePtr_resets (s : State) : (s.advancePtr).resets = s.resets := rfl
@[simp] theorem State.advancePtr_prog (s : State) : (s.advancePtr).prog = s.prog := rfl
@[simp] theorem State.advancePtr_pos (s : State) : (s.advancePtr).pos = s.pos := rfl
@[simp] theorem State.advancePtr_vars (s : State) : (s.advancePtr).vars = s.vars := rfl
@[simp] theorem State.advancePtr_session (s : State) : (s.advancePtr).session = s.session := rfl

@[simp] theorem State.memWrite_argA (s : State) (i : Nat) (v : Byte) : (s.memWrite i v).argA = s.argA := by unfold State.memWrite; split <;> rfl
@[simp] theorem State.memWrite_argB (s : State) (i : Nat) (v : Byte) : (s.memWrite i v).argB = s.argB := by unfold State.memWrite; split <;> rfl
@[simp] theorem State.memWrite_status (s : State) (i : Nat) (v : Byte) : (s.memWrite i v).status = s.status := by unfold State.memWrite; split <;> rfl
@[simp] theorem State.memWrite_gridW (s : State) (i : Nat) (v : Byte) : (s.memWrite i v).gridW = s.gridW := by unfold State.memWrite; split <;> rfl
@[simp] theorem State.memWrite_gridH (s : State) (i : Nat) (v : Byte) : (s.memWrite i v).gridH = s.gridH := by unfold State.memWrite; split <;> rfl
@[simp] theorem State.memWrite_adjH (s : State) (i : Nat) (v : Byte) : (s.memWrite i v).adjH = s.adjH := by unfold State.memWrite; split <;> rfl
@[simp] theorem State.memWrite_bufLen (s : State) (i : Nat) (v : Byte) : (s.memWrite i v).bufLen = s.bufLen := by unfold State.memWrite; split <;> rfl
@[simp] theorem State.memWrite_bufPtr (s : State) (i : Nat) (v : Byte) : (s.memWrite i v).bufPtr = s.bufPtr := by unfold State.memWrite; split <;> rfl
@[simp] theorem State.memWrite_pixSel (s : State) (i : Nat) (v : Byte) : (s.memWrite i v).pixSel = s.pixSel := by unfold State.memWrite; split <;> rfl
@[simp] theorem State.memWrite_grid (s : State) (i : Nat) (v : Byte) : (s.memWrite i v).grid = s.grid := by unfold State.memWrite; split <;> rfl
@[simp] theorem State.memWrite_buf (s : State) (i : Nat) (v : Byte) : (s.memWrite i v).buf = if i < Config.bufCap then assocSet i v s.buf else s.buf := by unfold State.memWrite; split <;> rfl
@[simp] theorem State.memWrite_pend (s : State) (i : Nat) (v : Byte) : (s.memWrite i v).pend = s.pend := by unfold State.memWrite; split <;> rfl
@[simp] theorem State.memWrite_rdata (s : State) (i : Nat) (v : Byte) : (s.memWrite i v).rdata = s.rdata := by unfold State.memWrite; split <;> rfl
@[simp] theorem State.memWrite_run (s : State) (i : Nat) (v : Byte) : (s.memWrite i v).run = s.run := by unfold State.memWrite; split <;> rfl
@[simp] theorem State.memWrite_draws (s : State) (i : Nat) (v : Byte) : (s.memWrite i v).draws = s.draws := by unfold State.memWrite; split <;> rfl
@[simp] theorem State.memWrite_delay (s : State) (i : Nat) (v : Byte) : (s.memWrite i v).delay = s.delay := by unfold State.memWrite; split <;> rfl
@[simp] theorem State.memWrite_latencies (s : State) (i : Nat) (v : Byte) : (s.memWrite i v).latencies = s.latencies := by unfold State.memWrite; split <;> rfl
@[simp] theorem State.memWrite_resets (s : State) (i : Nat) (v : Byte) : (s.memWrite i v).resets = s.resets := by unfold State.memWrite; split <;> rfl
@[simp] theorem State.memWrite_prog (s : State) (i : Nat) (v : Byte) : (s.memWrite i v).prog = s.prog := by unfold State.memWrite; split <;> rfl
@[simp] theorem State.memWrite_pos (s : State) (i : Nat) (v : Byte) : (s.memWrite i v).pos = s.pos := by unfold State.memWrite; split <;> rfl
@[simp] theorem State.memWrite_vars (s : State) (i : Nat) (v : Byte) : (s.memWrite i v).vars = s.vars := by unfold State.memWrite; split <;> rfl
@[simp] theorem State.memWrite_session (s : State) (i : Nat) (v : Byte) : (s.memWrite i v).session = s.session := by unfold State.memWrite; split <;> rfl

@[simp] theorem State.startDelay_argA (s : State) : (s.startDelay).argA = s.argA := by unfold State.startDelay; split <;> rfl
@[simp] theorem State.startDelay_argB (s : State) : (s.startDelay).argB = s.argB := by unfold State.startDelay; split <;> rfl
@[simp] theorem State.startDelay_status (s : State) : (s.startDelay).status = s.status := by unfold State.startDelay; split <;> rfl
@[simp] theorem State.startDelay_gridW (s : State) : (s.startDelay).gridW = s.gridW := by unfold State.startDelay; split <;> rfl
@[simp] theorem State.startDelay_gridH (s : State) : (s.startDelay).gridH = s.gridH := by unfold State.startDelay; split <;> rfl
@[simp] theorem State.startDelay_adjH (s : State) : (s.startDelay).adjH = s.adjH := by unfold State.startDelay; split <;> rfl
@[simp] theorem State.startDelay_bufLen (s : State) : (s.startDelay).bufLen = s.bufLen := by unfold State.startDelay; split <;> rfl
@[simp] theorem State.startDelay_bufPtr (s : State) : (s.startDelay).bufPtr = s.bufPtr := by unfold State.startDelay; split <;> rfl
@[simp] theorem State.startDelay_pixSel (s : State) : (s.startDelay).pixSel = s.pixSel := by unfold State.startDelay; split <;> rfl
@[simp] theorem State.startDelay_grid (s : State) : (s.startDelay).grid = s.grid := by unfold State.startDelay; split <;> rfl
@[simp] theorem State.startDelay_buf (s : State) : (s.startDelay).buf = s.buf := by unfold State.startDelay; split <;> rfl
@[simp] theorem State.startDelay_pend (s : State) : (s.startDelay).pend = s.pend := by unfold State.startDelay; split <;> rfl
@[simp] theorem State.startDelay_rdata (s : State) : (s.startDelay).rdata = s.rdata := by unfold State.startDelay; split <;> rfl
@[simp] theorem State.startDelay_run (s : State) : (s.startDelay).run = s.run := by unfold State.startDelay; split <;> rfl
@[simp] theorem State.startDelay_resets (s : State) : (s.startDelay).resets = s.resets := by unfold State.startDelay; split <;> rfl
@[simp] theorem State.startDelay_prog (s : State) : (s.startDelay).prog = s.prog := by unfold State.startDelay; split <;> rfl
@[simp] theorem State.startDelay_pos (s : State) : (s.startDelay).pos = s.pos := by unfold State.startDelay; split <;> rfl
@[simp] theorem State.startDelay_vars (s : State) : (s.startDelay).vars = s.vars := by unfold State.startDelay; split <;> rfl
@[simp] theorem State.startDelay_session (s : State) : (s.startDelay).session = s.session := by unfold State.startDelay; split <;> rfl

@[simp] theorem State.issue_argA (s : State) (d : Word) : (s.issue d).argA = s.argA := s.startDelay_argA
@[simp] theorem State.issue_argB (s : State) (d : Word) : (s.issue d).argB = s.argB := s.startDelay_argB
@[simp] theorem State.issue_status (s : State) (d : Word) : (s.issue d).status = s.status.issued := rfl
@[simp] theorem State.issue_gridW (s : State) (d : Word) : (s.issue d).gridW = s.gridW := s.startDelay_gridW
@[simp] theorem State.issue_gridH (s : State) (d : Word) : (s.issue d).gridH = s.gridH := s.startDelay_gridH
@[simp] theorem State.issue_adjH (s : State) (d : Word) : (s.issue d).adjH = s.adjH := s.startDelay_adjH
@[simp] theorem State.issue_bufLen (s : State) (d : Word) : (s.issue d).bufLen = s.bufLen := s.startDelay_bufLen
@[simp] theorem State.issue_bufPtr (s : State) (d : Word) : (s.issue d).bufPtr = s.bufPtr := s.startDelay_bufPtr
@[simp] theorem State.issue_pixSel (s : State) (d : Word) : (s.issue d).pixSel = s.pixSel := s.startDelay_pixSel
@[simp] theorem State.issue_grid (s : State) (d : Word) : (s.issue d).grid = s.grid := s.startDelay_grid
@[simp] theorem State.issue_buf (s : State) (d : Word) : (s.issue d).buf = s.buf := s.startDelay_buf
@[simp] theorem State.issue_pend (s : State) (d : Word) : (s.issue d).pend = d := rfl
@[simp] theorem State.issue_rdata (s : State) (d : Word) : (s.issue d).rdata = s.rdata := s.startDelay_rdata
@[simp] theorem State.issue_run (s : State) (d : Word) : (s.issue d).run = s.run := s.startDelay_run
@[simp] theorem State.issue_draws (s : State) (d : Word) : (s.issue d).draws = s.startDelay.draws := rfl
@[simp] theorem State.issue_delay (s : State) (d : Word) : (s.issue d).delay = s.startDelay.delay := rfl
@[simp] theorem State.issue_latencies (s : State) (d : Word) : (s.issue d).latencies = s.startDelay.latencies := rfl
@[simp] theorem State.issue_resets (s : State) (d : Word) : (s.issue d).resets = s.resets := s.startDelay_resets
@[simp] theorem State.issue_prog (s : State) (d : Word) : (s.issue d).prog = s.prog := s.startDelay_prog
@[simp] theorem State.issue_pos (s : State) (d : Word) : (s.issue d).pos = s.pos := s.startDelay_pos
@[simp] theorem State.issue_vars (s : State) (d : Word) : (s.issue d).vars = s.vars := s.startDelay_vars
@[simp] theorem State.issue_session (s : State) (d : Word) : (s.issue d).session = s.session := s.startDelay_session

@[simp] theorem State.nextLine_argA (s : State) : (s.nextLine).argA = s.argA := rfl
@[simp] theorem State.nextLine_argB (s : State) : (s.nextLine).argB = s.argB := rfl
@[simp] theorem State.nextLine_status (s : State) : (s.nextLine).status = s.status := rfl
@[simp] theorem State.nextLine_gridW (s : State) : (s.nextLine).gridW = s.gridW := rfl
@[simp] theorem State.nextLine_gridH (s : State) : (s.nextLine).gridH = s.gridH := rfl
@[simp] theorem State.nextLine_adjH (s : State) : (s.nextLine).adjH = s.adjH := rfl
@[simp] theorem State.nextLine_bufLen (s : State) : (s.nextLine).bufLen = s.bufLen := rfl
@[simp] theorem State.nextLine_bufPtr (s : State) : (s.nextLine).bufPtr = s.bufPtr := rfl
@[simp] theorem State.nextLine_pixSel (s : State) : (s.nextLine).pixSel = s.pixSel := rfl
@[simp] theorem State.nextLine_grid (s : State) : (s.nextLine).grid = s.grid := rfl
@[simp] theorem State.nextLine_buf (s : State) : (s.nextLine).buf = s.buf := rfl
@[simp] theorem State.nextLine_pend (s : State) : (s.nextLine).pend = s.pend := rfl
@[simp] theorem State.nextLine_rdata (s : State) : (s.nextLine).rdata = s.rdata := rfl
@[simp] theorem State.nextLine_run (s : State) : (s.nextLine).run = s.run := rfl
@[simp] theorem State.nextLine_draws (s : State) : (s.nextLine).draws = s.draws := rfl
@[simp] theorem State.nextLine_delay (s : State) : (s.nextLine).delay = s.delay := rfl
@[simp] theorem State.nextLine_latencies (s : State) : (s.nextLine).latencies = s.latencies := rfl
@[simp] theorem State.nextLine_resets (s : State) : (s.nextLine).resets = s.resets := rfl
@[simp] theorem State.nextLine_prog (s : State) : (s.nextLine).prog = s.prog := rfl
@[simp] theorem State.nextLine_pos (s : State) : (s.nextLine).pos = s.pos + 1 := rfl
@[simp] theorem State.nextLine_vars (s : State) : (s.nextLine).vars = s.vars := rfl
@[simp] theorem State.nextLine_session (s : State) : (s.nextLine).session = s.session := rfl

@[simp] theorem State.setSession_argA (s : State) (ss : Session) : (s.setSession ss).argA = s.argA := rfl
@[simp] theorem State.setSession_argB (s : State) (ss : Session) : (s.setSession ss).argB = s.argB := rfl
@[simp] theorem State.setSession_status (s : State) (ss : Session) : (s.setSession ss).status = s.status := rfl
@[simp] theorem State.setSession_gridW (s : State) (ss : Session) : (s.setSession ss).gridW = s.gridW := rfl
@[simp] theorem State.setSession_gridH (s : State) (ss : Session) : (s.setSession ss).gridH = s.gridH := rfl
@[simp] theorem State.setSession_adjH (s : State) (ss : Session) : (s.setSession ss).adjH = s.adjH := rfl
@[simp] theorem State.setSession_bufLen (s : State) (ss : Session) : (s.setSession ss).bufLen = s.bufLen := rfl
@[simp] theorem State.setSession_bufPtr (s : State) (ss : Session) : (s.setSession ss).bufPtr = s.bufPtr := rfl
@[simp] theorem State.setSession_pixSel (s : State) (ss : Session) : (s.setSession ss).pixSel = s.pixSel := rfl
@[simp] theorem State.setSession_grid (s : State) (ss : Session) : (s.setSession ss).grid = s.grid := rfl
@[simp] theorem State.setSession_buf (s : State) (ss : Session) : (s.setSession ss).buf = s.buf := rfl
@[simp] theorem State.setSession_pend (s : State) (ss : Session) : (s.setSession ss).pend = s.pend := rfl
@[simp] theorem State.setSession_rdata (s : State) (ss : Session) : (s.setSession ss).rdata = s.rdata := rfl
@[simp] theorem State.setSession_run (s : State) (ss : Session) : (s.setSession ss).run = s.run := rfl
@[simp] theorem State.setSession_draws (s : State) (ss : Session) : (s.setSession ss).draws = s.draws := rfl
@[simp] theorem State.setSession_delay (s : State) (ss : Session) : (s.setSession ss).delay = s.delay := rfl
@[simp] theorem State.setSession_latencies (s : State) (ss : Session) : (s.setSession ss).latencies = s.latencies := rfl
@[simp] theorem State.setSession_resets (s : State) (ss : Session) : (s.setSession ss).resets = s.resets := rfl
@[simp] theorem State.setSession_prog (s : State) (ss : Session) : (s.setSession ss).prog = s.prog := rfl
@[simp] theorem State.setSession_pos (s : State) (ss : Session) : (s.setSession ss).pos = s.pos := rfl
@[simp] theorem State.setSession_vars (s : State) (ss : Session) : (s.setSession ss).vars = s.vars := rfl
@[simp] theorem State.setSession_session (s : State) (ss : Session) : (s.setSession ss).session = ss := rfl

@[simp] theorem State.bindRead_argA (s : State) (sel : BitVec 9) (b : Option Nat) : (s.bindRead sel b).argA = s.argA := by unfold State.bindRead; split <;> [rfl; (split <;> rfl)]
@[simp] theorem State.bindRead_argB (s : State) (sel : BitVec 9) (b : Option Nat) : (s.bindRead sel b).argB = s.argB := by unfold State.bindRead; split <;> [rfl; (split <;> rfl)]
@[simp] theorem State.bindRead_status (s : State) (sel : BitVec 9) (b : Option Nat) : (s.bindRead sel b).status = s.status := by unfold State.bindRead; split <;> [rfl; (split <;> rfl)]
@[simp] theorem State.bindRead_gridW (s : State) (sel : BitVec 9) (b : Option Nat) : (s.bindRead sel b).gridW = s.gridW := by unfold State.bindRead; split <;> [rfl; (split <;> rfl)]
@[simp] theorem State.bindRead_gridH (s : State) (sel : BitVec 9) (b : Option Nat) : (s.bindRead sel b).gridH = s.gridH := by unfold State.bindRead; split <;> [rfl; (split <;> rfl)]
@[simp] theorem State.bindRead_adjH (s : State) (sel : BitVec 9) (b : Option Nat) : (s.bindRead sel b).adjH = s.adjH := by unfold State.bindRead; split <;> [rfl; (split <;> rfl)]
@[simp] theorem State.bindRead_bufLen (s : State) (sel : BitVec 9) (b : Option Nat) : (s.bindRead sel b).bufLen = s.bufLen := by unfold State.bindRead; split <;> [rfl; (split <;> rfl)]
@[simp] theorem State.bindRead_bufPtr (s : State) (sel : BitVec 9) (b : Option Nat) : (s.bindRead sel b).bufPtr = s.bufPtr := by unfold State.bindRead; split <;> [rfl; (split <;> rfl)]
@[simp] theorem State.bindRead_pixSel (s : State) (sel : BitVec 9) (b : Option Nat) : (s.bindRead sel b).pixSel = s.pixSel := by unfold State.bindRead; split <;> [rfl; (split <;> rfl)]
@[simp] theorem State.bindRead_grid (s : State) (sel : BitVec 9) (b : Option Nat) : (s.bindRead sel b).grid = s.grid := by unfold State.bindRead; split <;> [rfl; (split <;> rfl)]
@[simp] theorem State.bindRead_buf (s : State) (sel : BitVec 9) (b : Option Nat) : (s.bindRead sel b).buf = s.buf := by unfold State.bindRead; split <;> [rfl; (split <;> rfl)]
@[simp] theorem State.bindRead_pend (s : State) (sel : BitVec 9) (b : Option Nat) : (s.bindRead sel b).pend = s.pend := by unfold State.bindRead; split <;> [rfl; (split <;> rfl)]
@[simp] theorem State.bindRead_rdata (s : State) (sel : BitVec 9) (b : Option Nat) : (s.bindRead sel b).rdata = s.rdata := by unfold State.bindRead; split <;> [rfl; (split <;> rfl)]
@[simp] theorem State.bindRead_run (s : State) (sel : BitVec 9) (b : Option Nat) : (s.bindRead sel b).run = s.run := by unfold State.bindRead; split <;> [rfl; (split <;> rfl)]
@[simp] theorem State.bindRead_draws (s : State) (sel : BitVec 9) (b : Option Nat) : (s.bindRead sel b).draws = s.draws := by unfold State.bindRead; split <;> [rfl; (split <;> rfl)]
@[simp] theorem State.bindRead_delay (s : State) (sel : BitVec 9) (b : Option Nat) : (s.bindRead sel b).delay = s.delay := by unfold State.bindRead; split <;> [rfl; (split <;> rfl)]
@[simp] theorem State.bindRead_latencies (s : State) (sel : BitVec 9) (b : Option Nat) : (s.bindRead sel b).latencies = s.latencies := by unfold State.bindRead; split <;> [rfl; (split <;> rfl)]
@[simp] theorem State.bindRead_resets (s : State) (sel : BitVec 9) (b : Option Nat) : (s.bindRead sel b).resets = s.resets := by unfold State.bindRead; split <;> [rfl; (split <;> rfl)]
@[simp] theorem State.bindRead_prog (s : State) (sel : BitVec 9) (b : Option Nat) : (s.bindRead sel b).prog = s.prog := by unfold State.bindRead; split <;> [rfl; (split <;> rfl)]
@[simp] theorem State.bindRead_pos (s : State) (sel : BitVec 9) (b : Option Nat) : (s.bindRead sel b).pos = s.pos := by unfold State.bindRead; split <;> [rfl; (split <;> rfl)]
@[simp] theorem State.bindRead_session (s : State) (sel : BitVec 9) (b : Option Nat) : (s.bindRead sel b).session = s.session := by unfold State.bindRead; split <;> [rfl; (split <;> rfl)]

@[simp] theorem State.sampled_argA (s : State) : (s.sampled).argA = s.argA := rfl
@[simp] theorem State.sampled_argB (s : State) : (s.sampled).argB = s.argB := rfl
@[simp] theorem State.sampled_status (s : State) : (s.sampled).status = s.status := rfl
@[simp] theorem State.sampled_gridW (s : State) : (s.sampled).gridW = s.gridW := rfl
@[simp] theorem State.sampled_gridH (s : State) : (s.sampled).gridH = s.gridH := rfl
@[simp] theorem State.sampled_adjH (s : State) : (s.sampled).adjH = s.adjH := rfl
@[simp] theorem State.sampled_bufLen (s : State) : (s.sampled).bufLen = s.bufLen := rfl
@[simp] theorem State.sampled_bufPtr (s : State) : (s.sampled).bufPtr = s.bufPtr := rfl
@[simp] theorem State.sampled_pixSel (s : State) : (s.sampled).pixSel = s.pixSel := rfl
@[simp] theorem State.sampled_grid (s : State) : (s.sampled).grid = s.grid := rfl
@[simp] theorem State.sampled_buf (s : State) : (s.sampled).buf = s.buf := rfl
@[simp] theorem State.sampled_pend (s : State) : (s.sampled).pend = s.pend := rfl
@[simp] theorem State.sampled_rdata (s : State) : (s.sampled).rdata = s.rdata := rfl
@[simp] theorem State.sampled_run (s : State) : (s.sampled).run = s.run := rfl
@[simp] theorem State.sampled_draws (s : State) : (s.sampled).draws = s.draws := rfl
@[simp] theorem State.sampled_delay (s : State) : (s.sampled).delay = s.delay := rfl
@[simp] theorem State.sampled_latencies (s : State) : (s.sampled).latencies = s.latencies := rfl
@[simp] theorem State.sampled_resets (s : State) : (s.sampled).resets = s.resets.tail := rfl
@[simp] theorem State.sampled_prog (s : State) : (s.sampled).prog = s.prog := rfl
@[simp] theorem State.sampled_pos (s : State) : (s.sampled).pos = s.pos := rfl
@[simp] theorem State.sampled_vars (s : State) : (s.sampled).vars = s.vars := rfl
@[simp] theorem State.sampled_session (s : State) : (s.sampled).session = s.session := rfl

@[simp] theorem State.counted_argA (s : State) : (s.counted).argA = s.argA := by unfold State.counted; split <;> rfl
@[simp] theorem State.counted_argB (s : State) : (s.counted).argB = s.argB := by unfold State.counted; split <;> rfl
@[simp] theorem State.counted_status (s : State) : (s.counted).status = s.status := by unfold State.counted; split <;> rfl
@[simp] theorem State.counted_gridW (s : State) : (s.counted).gridW = s.gridW := by unfold State.counted; split <;> rfl
@[simp] theorem State.counted_gridH (s : State) : (s.counted).gridH = s.gridH := by unfold State.counted; split <;> rfl
@[simp] theorem State.counted_adjH (s : State) : (s.counted).adjH = s.adjH := by unfold State.counted; split <;> rfl
@[simp] theorem State.counted_bufLen (s : State) : (s.counted).bufLen = s.bufLen := by unfold State.counted; split <;> rfl
@[simp] theorem State.counted_bufPtr (s : State) : (s.counted).bufPtr = s.bufPtr := by unfold State.counted; split <;> rfl
@[simp] theorem State.counted_pixSel (s : State) : (s.counted).pixSel = s.pixSel := by unfold State.counted; split <;> rfl
@[simp] theorem State.counted_grid (s : State) : (s.counted).grid = s.grid := by unfold State.counted; split <;> rfl
@[simp] theorem State.counted_buf (s : State) : (s.counted).buf = s.buf := by unfold State.counted; split <;> rfl
@[simp] theorem State.counted_pend (s : State) : (s.counted).pend = s.pend := by unfold State.counted; split <;> rfl
@[simp] theorem State.counted_rdata (s : State) : (s.counted).rdata = s.rdata := by unfold State.counted; split <;> rfl
@[simp] theorem State.counted_run (s : State) : (s.counted).run = s.run := by unfold State.counted; split <;> rfl
@[simp] theorem State.counted_draws (s : State) : (s.counted).draws = s.draws := by unfold State.counted; split <;> rfl
@[simp] theorem State.counted_delay (s : State) : (s.counted).delay = if s.status.busy then s.delay - 1 else s.delay := by unfold State.counted; split <;> rfl
@[simp] theorem State.counted_latencies (s : State) : (s.counted).latencies = s.latencies := by unfold State.counted; split <;> rfl
@[simp] theorem State.counted_resets (s : State) : (s.counted).resets = s.resets := by unfold State.counted; split <;> rfl
@[simp] theorem State.counted_prog (s : State) : (s.counted).prog = s.prog := by unfold State.counted; split <;> rfl
@[simp] theorem State.counted_pos (s : State) : (s.counted).pos = s.pos := by unfold State.counted; split <;> rfl
@[simp] theorem State.counted_vars (s : State) : (s.counted).vars = s.vars := by unfold State.counted; split <;> rfl
@[simp] theorem State.counted_session (s : State) : (s.counted).session = s.session := by unfold State.counted; split <;> rfl

/-! What the host keeps of each access. -/

@[simp] theorem Session.note_wrCmd (ss : Session) (w : Word) (busy : Bool) (rdata : Word) :
    ss.note (.wrCmd w) busy rdata = if busy then ss else ss.issued := rfl
@[simp] theorem Session.note_wrBufData (ss : Session) (w : Word) (busy : Bool) (rdata : Word) :
    ss.note (.wrBufData w) busy rdata = ss.reloaded := rfl
@[simp] theorem Session.note_wrBufLen (ss : Session) (w : Word) (busy : Bool) (rdata : Word) :
    ss.note (.wrBufLen w) busy rdata = ss.reloaded := rfl
@[simp] theorem Session.note_rdStatus (ss : Session) (busy : Bool) (rdata : Word) :
    ss.note .rdStatus busy rdata = if rdata.getLsbD 0 then ss else ss.polled rdata := rfl

/-- Every access but a write of CMD and a read of STATUS leaves the host's dealings with its user alone, but that a
write to the buffer or its length drops a proceed. -/
theorem Session.note_other (ss : Session) (i : Instr) (busy : Bool) (rdata : Word) (h1 : ∀ w, i ≠ .wrCmd w)
    (h2 : i ≠ .rdStatus) : ss.note i busy rdata = { ss with consent := (ss.note i busy rdata).consent } := by
  cases i <;> first | rfl | exact absurd rfl (h1 _) | exact absurd rfl h2

/-- No access adds a proceed. -/
theorem Session.note_consent (ss : Session) (i : Instr) (busy : Bool) (rdata : Word) :
    (ss.note i busy rdata).consent = ss.consent ∨ (ss.note i busy rdata).consent = none := by
  cases i <;> first | exact .inl rfl | exact .inr rfl | skip
  · cases busy <;> [exact .inr rfl; exact .inl rfl]
  · rw [Session.note_rdStatus]; split <;> exact .inl rfl

@[simp] theorem Session.issued_bound (ss : Session) : ss.issued.bound = ss.bound := rfl
@[simp] theorem Session.issued_awaiting (ss : Session) : ss.issued.awaiting = true := rfl
@[simp] theorem Session.issued_refused (ss : Session) : ss.issued.refused = ss.refused := rfl
@[simp] theorem Session.issued_consent (ss : Session) : ss.issued.consent = none := rfl
@[simp] theorem Session.issued_reported (ss : Session) : ss.issued.reported = false := rfl
@[simp] theorem Session.issued_shown (ss : Session) : ss.issued.shown = ss.shown := rfl
@[simp] theorem Session.reloaded_bound (ss : Session) : ss.reloaded.bound = ss.bound := rfl
@[simp] theorem Session.reloaded_awaiting (ss : Session) : ss.reloaded.awaiting = ss.awaiting := rfl
@[simp] theorem Session.reloaded_refused (ss : Session) : ss.reloaded.refused = ss.refused := rfl
@[simp] theorem Session.reloaded_consent (ss : Session) : ss.reloaded.consent = none := rfl
@[simp] theorem Session.reloaded_reported (ss : Session) : ss.reloaded.reported = ss.reported := rfl
@[simp] theorem Session.reloaded_shown (ss : Session) : ss.reloaded.shown = ss.shown := rfl
@[simp] theorem Session.polled_bound (ss : Session) (st : Word) : (ss.polled st).bound = ss.bound := rfl
@[simp] theorem Session.polled_awaiting (ss : Session) (st : Word) : (ss.polled st).awaiting = false := rfl
@[simp] theorem Session.polled_refused (ss : Session) (st : Word) :
    (ss.polled st).refused = (ss.refused || statusRefused st) := rfl
@[simp] theorem Session.polled_consent (ss : Session) (st : Word) : (ss.polled st).consent = ss.consent := rfl
@[simp] theorem Session.polled_reported (ss : Session) (st : Word) : (ss.polled st).reported = ss.reported := rfl
@[simp] theorem Session.polled_shown (ss : Session) (st : Word) : (ss.polled st).shown = ss.shown := rfl

/-! STATUS bits under each change. -/

@[simp] theorem Status.ended_busy (st : Status) : st.ended.busy = false := rfl
@[simp] theorem Status.ended_ok (st : Status) : st.ended.ok = st.ok := rfl
@[simp] theorem Status.ended_busyerr (st : Status) : st.ended.busyerr = st.busyerr := rfl
@[simp] theorem Status.succeeded_busy (st : Status) : st.succeeded.busy = false := rfl
@[simp] theorem Status.succeeded_ok (st : Status) : st.succeeded.ok = true := rfl
@[simp] theorem Status.succeeded_busyerr (st : Status) : st.succeeded.busyerr = st.busyerr := rfl
@[simp] theorem Status.issued_busy (st : Status) : st.issued.busy = true := rfl
@[simp] theorem Status.issued_ok (st : Status) : st.issued.ok = false := rfl
@[simp] theorem Status.issued_busyerr (st : Status) : st.issued.busyerr = st.busyerr := rfl
@[simp] theorem Status.issued_noResult (st : Status) : st.issued.noResult = true := rfl

theorem Status.record_busy (st : Status) (e : Condition) : (st.record e).busy = st.busy := by
  cases e <;> rfl

/-- A write to STATUS while BUSY = 0 touches BUSYERR alone. -/
theorem Status.hostWritten_eq (st : Status) (d : Word) :
    st.hostWritten d = { st with busyerr := st.busyerr && !d.getLsbD 7 } := by
  unfold Status.hostWritten
  cases hb : st.busyerr <;> split <;> simp_all <;> cases st <;> simp_all

/-- Bits 6:1 are 0 exactly where each is. -/
theorem Status.noResult_iff (st : Status) : st.noResult = true ↔
    st.ok = false ∧ st.valerr = false ∧ st.lenmm = false ∧ st.short = false ∧ st.hadj = false ∧ st.illcmd = false := by
  cases st
  simp [Status.noResult, and_assoc]

end Sys2Proof.Machine
end

