-- ==== Sys2Proof/Laws/Grid.lean ====
section
/-! SUPPORT. The pixel storage: what a cell of a built grid reads as, and that cells decide a grid. -/
namespace Sys2Proof.Machine

theorem rowBits_lt (f : Nat → Bool) (n : Nat) : rowBits f n < 2 ^ n := by
  induction n with
  | zero => simp [rowBits]
  | succ n ih =>
    simp only [rowBits]
    split <;> omega

theorem testBit_rowBits (f : Nat → Bool) (n c : Nat) :
    (rowBits f n).testBit c = (decide (c < n) && f c) := by
  induction n with
  | zero => simp [rowBits]
  | succ n ih =>
    have hlt := rowBits_lt f n
    simp only [rowBits]
    split
    · next hf =>
      rw [Nat.add_comm]
      by_cases hc : c = n
      · subst hc
        rw [Nat.testBit_two_pow_add_eq, Nat.testBit_lt_two_pow hlt]
        simp [hf]
      · by_cases hlt2 : c < n
        · rw [Nat.testBit_two_pow_add_gt hlt2, ih]
          simp [hlt2, Nat.lt_succ_of_lt hlt2]
        · have : 2 ^ n + rowBits f n < 2 ^ c := by
            have : 2 ^ (n + 1) ≤ 2 ^ c := Nat.pow_le_pow_right (by omega) (by omega)
            omega
          rw [Nat.testBit_lt_two_pow this]
          have : ¬ c < n + 1 := by omega
          simp [this]
    · next hf =>
      rw [Nat.add_zero, ih]
      by_cases hc : c = n
      · subst hc; simp [hf]
      · have : decide (c < n + 1) = decide (c < n) := by
          apply decide_eq_decide.mpr; omega
        rw [this]

/-- A cell of a built grid: its value inside the storage, off outside it. -/
theorem Grid.px_ofFn (f : Nat → Nat → Bool) (r c : Nat) :
    Grid.px (Grid.ofFn f) r c = (decide (r < Config.maxH) && (decide (c < Config.maxW) && f r c)) := by
  unfold Grid.px Grid.ofFn
  by_cases hr : r < Config.maxH
  · rw [Vector.getElem?_eq_getElem hr]
    simp [testBit_rowBits, hr, BitVec.getLsbD_ofNat]
  · rw [Vector.getElem?_eq_none (by omega)]
    simp [hr]

/-- No cell stands outside the storage. -/
theorem Grid.px_outside (g : Grid) (r c : Nat) (h : Config.maxH ≤ r ∨ Config.maxW ≤ c) : Grid.px g r c = false := by
  unfold Grid.px
  by_cases hr : r < Config.maxH
  · rw [Vector.getElem?_eq_getElem hr]
    have hc : Config.maxW ≤ c := by omega
    exact BitVec.getLsbD_of_ge _ _ hc
  · rw [Vector.getElem?_eq_none (by omega)]

/-- Grids with the same cells are the same. -/
theorem Grid.eq_of_px (g g' : Grid) (h : ∀ r c, Grid.px g r c = Grid.px g' r c) : g = g' := by
  apply Vector.ext
  intro r hr
  apply BitVec.eq_of_getLsbD_eq
  intro c _
  have := h r c
  unfold Grid.px at this
  rw [Vector.getElem?_eq_getElem hr, Vector.getElem?_eq_getElem hr] at this
  exact this

/-- All cells are off after reset. -/
theorem State.pix_reset (r c : Nat) : State.reset.pix r c = false := by
  unfold State.pix Grid.px State.reset
  simp only [Vector.getElem?_replicate]
  by_cases hr : r < Config.maxH <;> simp [hr]

/-- Pixels are the same where the grid is. -/
theorem State.pix_congr (s t : State) (h : t.grid = s.grid) (r c : Nat) : t.pix r c = s.pix r c := by
  unfold State.pix
  rw [h]

end Sys2Proof.Machine
end

