-- ==== Sys2Proof/Laws/Mem.lean ====
section
/-! SUPPORT. BUF and the sorted lists under it: read after write, and that every write keeps the canonical form. -/
namespace Sys2Proof.Machine

theorem assocGet_assocSet_same {α : Type} (k : Nat) (v : α) (m : List (Nat × α)) :
    assocGet k (assocSet k v m) = some v := by
  induction m with
  | nil => simp [assocSet, assocGet]
  | cons c rest ih =>
    obtain ⟨a, w⟩ := c
    unfold assocSet
    split
    · simp [assocGet]
    · split
      · simp [assocGet]
      · simp only [assocGet]
        rw [if_neg (by omega), ih]

theorem assocGet_assocSet_other {α : Type} (j k : Nat) (v : α) (m : List (Nat × α)) (h : j ≠ k) :
    assocGet j (assocSet k v m) = assocGet j m := by
  induction m with
  | nil => simp [assocSet, assocGet, Ne.symm h]
  | cons c rest ih =>
    obtain ⟨a, w⟩ := c
    unfold assocSet
    split
    · simp [assocGet, Ne.symm h]
    · split
      · next hka => subst hka; simp [assocGet, Ne.symm h]
      · simp only [assocGet]
        rw [ih]

theorem assocRising_assocSet {α : Type} (k : Nat) (v : α) (m : List (Nat × α)) :
    ∀ lo : Option Nat, assocRising lo m = true → (∀ l, lo = some l → l < k) →
      assocRising lo (assocSet k v m) = true := by
  induction m with
  | nil =>
    intro lo _ hk
    cases lo with
    | none => simp [assocSet, assocRising]
    | some l => simp [assocSet, assocRising, hk l rfl]
  | cons c rest ih =>
    obtain ⟨a, w⟩ := c
    intro lo hr hk
    simp only [assocRising, Bool.and_eq_true] at hr
    unfold assocSet
    split
    · next hka =>
      simp only [assocRising, Bool.and_eq_true, decide_eq_true_eq]
      refine ⟨?_, hka, hr.2⟩
      cases lo with
      | none => rfl
      | some l => simpa using hk l rfl
    · split
      · next hka =>
        subst hka
        simp only [assocRising, Bool.and_eq_true]
        exact hr
      · simp only [assocRising, Bool.and_eq_true]
        exact ⟨hr.1, ih (some a) hr.2 (by intro l hl; cases hl; omega)⟩

theorem all_assocSet {α : Type} (p : Nat → Bool) (k : Nat) (v : α) (m : List (Nat × α)) (hk : p k = true)
    (hm : m.all (fun c => p c.1) = true) : (assocSet k v m).all (fun c => p c.1) = true := by
  induction m with
  | nil => simp [assocSet, hk]
  | cons c rest ih =>
    obtain ⟨a, w⟩ := c
    simp only [List.all_cons, Bool.and_eq_true] at hm
    unfold assocSet
    split
    · simp only [List.all_cons, Bool.and_eq_true]; exact ⟨hk, hm⟩
    · split
      · simp only [List.all_cons, Bool.and_eq_true]; exact ⟨hk, hm.2⟩
      · simp only [List.all_cons, Bool.and_eq_true]; exact ⟨hm.1, ih hm.2⟩

/-- Every byte write keeps BUF canonical. -/
theorem Mem.wf_memWrite (s : State) (i : Nat) (v : Byte) (h : Mem.wf s.buf = true) :
    Mem.wf (s.memWrite i v).buf = true := by
  simp only [State.memWrite_buf]
  split
  · next hi =>
    simp only [Mem.wf, Bool.and_eq_true] at h ⊢
    exact ⟨assocRising_assocSet i v s.buf none h.1 (by simp),
      all_assocSet (fun a => decide (a < Config.bufCap)) i v s.buf (by simpa using hi) h.2⟩
  · exact h

/-- Every list of byte writes keeps BUF canonical. -/
theorem Mem.wf_memWriteAll (cells : List Host.Cell) : ∀ s : State, Mem.wf s.buf = true →
    Mem.wf (s.memWriteAll cells).buf = true := by
  induction cells with
  | nil => intro s h; exact h
  | cons c rest ih => intro s h; exact ih _ (Mem.wf_memWrite s c.1 c.2 h)

/-- BUF is canonical after reset. -/
theorem Mem.wf_reset : Mem.wf State.reset.buf = true := rfl

/-- A byte reads the same where BUF and the run are the same. -/
theorem State.memRead_congr (s t : State) (hb : t.buf = s.buf) (hr : t.run = s.run) (i : Nat) :
    t.memRead i = s.memRead i := by
  unfold State.memRead
  rw [hb, hr]

/-- A byte below 1024 reads back as written. -/
theorem State.memRead_memWrite_same (s : State) (i : Nat) (v : Byte) (h : i < Config.bufCap) :
    (s.memWrite i v).memRead i = v := by
  simp [State.memRead, h, assocGet_assocSet_same]

/-- A write leaves every other byte alone. -/
theorem State.memRead_memWrite_other (s : State) (i j : Nat) (v : Byte) (h : j ≠ i) :
    (s.memWrite i v).memRead j = s.memRead j := by
  simp only [State.memRead, State.memWrite_buf, State.memWrite_run]
  split
  · split
    · rw [assocGet_assocSet_other _ _ _ _ h]
    · rfl
  · rfl

/-- No index at or above 1024 holds a byte. -/
theorem State.memRead_high (s : State) (i : Nat) (h : Config.bufCap ≤ i) : s.memRead i = 0 := by
  unfold State.memRead
  rw [if_neg (Nat.not_lt.mpr h)]

/-- Writes at other indices leave a byte alone. -/
theorem State.memRead_memWriteAll_other (cells : List Host.Cell) : ∀ (s : State) (i : Nat),
    (∀ c ∈ cells, c.1 ≠ i) → (s.memWriteAll cells).memRead i = s.memRead i := by
  induction cells with
  | nil => intro s i _; rfl
  | cons c rest ih =>
    intro s i h
    rw [State.memWriteAll, ih _ _ (fun d hd => h d (List.mem_cons_of_mem _ hd)),
      State.memRead_memWrite_other _ _ _ _ (Ne.symm (h c List.mem_cons_self))]

/-- A byte that some write of the list stores, each write at its index storing the same value, reads as that value. -/
theorem State.memRead_memWriteAll_same (cells : List Host.Cell) : ∀ (s : State) (i : Nat) (v : Byte),
    i < Config.bufCap → (∀ c ∈ cells, c.1 = i → c.2 = v) → (∃ c ∈ cells, c.1 = i) →
      (s.memWriteAll cells).memRead i = v := by
  induction cells with
  | nil => intro s i v _ _ h; simp at h
  | cons c rest ih =>
    intro s i v hi hv hex
    rw [State.memWriteAll]
    by_cases hrest : ∃ d ∈ rest, d.1 = i
    · exact ih _ i v hi (fun d hd => hv d (List.mem_cons_of_mem _ hd)) hrest
    · rw [State.memRead_memWriteAll_other rest _ i (fun d hd hdi => hrest ⟨d, hd, hdi⟩)]
      have hc : c.1 = i := by
        obtain ⟨d, hd, hdi⟩ := hex
        rcases List.mem_cons.mp hd with rfl | hd
        · exact hdi
        · exact absurd ⟨d, hd, hdi⟩ hrest
      rw [← hv c List.mem_cons_self hc, hc, State.memRead_memWrite_same _ _ _ hi]

/-- A list of byte writes changes BUF alone. -/
theorem State.memWriteAll_eq (cells : List Host.Cell) : ∀ s : State,
    s.memWriteAll cells = { s with buf := (s.memWriteAll cells).buf } := by
  induction cells with
  | nil => intro s; rfl
  | cons c rest ih =>
    intro s
    rw [State.memWriteAll, ih]
    have hw : s.memWrite c.1 c.2 = { s with buf := (s.memWrite c.1 c.2).buf } := by
      unfold State.memWrite
      split <;> rfl
    rw [hw]

/-- A list of byte writes keeps the run, so that unwritten bytes read as before. -/
theorem State.memWriteAll_run (cells : List Host.Cell) (s : State) : (s.memWriteAll cells).run = s.run := by
  rw [State.memWriteAll_eq]

/-- A state that took over the bytes of a list of writes reads them. -/
theorem State.memRead_of_memWriteAll (s t : State) (cells : List Host.Cell)
    (hb : t.buf = (s.memWriteAll cells).buf) (hr : t.run = s.run) (i : Nat) :
    t.memRead i = (s.memWriteAll cells).memRead i :=
  State.memRead_congr _ _ hb (hr.trans (State.memWriteAll_run cells s).symm) i

end Sys2Proof.Machine
end

