-- ==== Sys2Proof/Laws/Dims.lean ====
section
/-! SUPPORT. NormH, Valid, CheckDims and the packed layout: one lemma for each that later proofs cite. -/
namespace Sys2Proof.Machine

/-- A normalized height is a multiple of 8. -/
theorem normH_mod (h : Int) : normH h % 8 = 0 := by
  unfold normH
  simp only [Config.pageRows, Nat.cast_ofNat]
  split
  · assumption
  · split <;> omega

/-- Accepted dimensions as natural numbers. -/
theorem validDims_bounds (w h : Int) (hv : validDims w (normH h) = true) :
    1 ≤ w.toNat ∧ w.toNat ≤ 128 ∧ (w.toNat : Int) = w
      ∧ (normH h).toNat % 8 = 0 ∧ 8 ≤ (normH h).toNat ∧ (normH h).toNat ≤ 64
      ∧ ((normH h).toNat : Int) = normH h := by
  have hm := normH_mod h
  simp only [validDims, Config.maxW, Config.maxH, Bool.and_eq_true, decide_eq_true_eq, Nat.cast_ofNat] at hv
  omega

/-- What CheckDims answers: the report and either VALERR or the accepted dimensions. -/
theorem State.checkDims_cases (s : State) (wreq hreq : Int) :
    (validDims wreq (normH hreq) = true ∧
      s.checkDims wreq hreq =
        ({ s with
            adjH := BitVec.ofInt 32 (normH hreq)
            status := { s.status with hadj := s.status.hadj || decide (normH hreq ≠ hreq) } },
          some (wreq.toNat, (normH hreq).toNat)))
    ∨ (validDims wreq (normH hreq) = false ∧
      s.checkDims wreq hreq =
        ({ s with
            adjH := BitVec.ofInt 32 (normH hreq)
            status := { s.status with
              hadj := s.status.hadj || decide (normH hreq ≠ hreq), valerr := true, busy := false } }, none)) := by
  unfold State.checkDims
  cases hv : validDims wreq (normH hreq) <;> by_cases hh : normH hreq = hreq
  · right; rw [hh] at hv; simp [hv, hh, State.raise, State.warn, State.endCommand, Status.record, Status.ended]
  · right; simp [hv, hh, State.raise, State.warn, State.endCommand, Status.record, Status.ended]
  · left; rw [hh] at hv; simp [hv, hh]
  · left; simp [hv, hh, State.warn, Status.record]

/-- ADJ_H holds a multiple of 8. -/
theorem adjH_mod (h : Int) : (BitVec.ofInt 32 (normH h)).toNat % 8 = 0 := by
  have := normH_mod h
  rw [BitVec.toNat_ofInt]
  omega

/-- The index of page p and column c lies below the packed length. -/
theorem packedIndex_lt (w h p c : Nat) (hp : p < h / 8) (hc : c < w) : packedIndex w p c < packedLen w h := by
  unfold packedIndex packedLen Config.pageRows
  calc p * w + c < p * w + w := by omega
    _ = (p + 1) * w := by rw [Nat.succ_mul]
    _ ≤ h / 8 * w := Nat.mul_le_mul_right _ hp

/-- Different pages or columns have different indices. -/
theorem packedIndex_inj (w p c p' c' : Nat) (hc : c < w) (hc' : c' < w)
    (h : packedIndex w p c = packedIndex w p' c') : p = p' ∧ c = c' := by
  unfold packedIndex at h
  have hw : 0 < w := by omega
  have h1 : (p * w + c) / w = (p' * w + c') / w := by rw [h]
  have h2 : (p * w + c) % w = (p' * w + c') % w := by rw [h]
  rw [Nat.add_comm, Nat.add_mul_div_right _ _ hw, Nat.add_comm (p' * w), Nat.add_mul_div_right _ _ hw,
    Nat.div_eq_of_lt hc, Nat.div_eq_of_lt hc'] at h1
  rw [Nat.add_comm, Nat.add_mul_mod_self_right, Nat.add_comm (p' * w), Nat.add_mul_mod_self_right,
    Nat.mod_eq_of_lt hc, Nat.mod_eq_of_lt hc'] at h2
  omega

/-- A packed grid of legal dimensions fits BUF. -/
theorem packedLen_le (w h : Nat) (hw : w ≤ 128) (hh : h ≤ 64) : packedLen w h ≤ 1024 := by
  unfold packedLen Config.pageRows
  calc h / 8 * w ≤ 8 * 128 := Nat.mul_le_mul (by omega) hw
    _ = 1024 := rfl

/-- Bit b of a packed byte is the pixel at row p*8 + b. -/
theorem State.getLsbD_packedByte (s : State) (p c b : Nat) (hb : b < 8) :
    (s.packedByte p c).getLsbD b = s.pix (p * 8 + b) c := by
  unfold State.packedByte
  rw [BitVec.getLsbD_ofNat, testBit_rowBits]
  simp [hb]

/-- The cells ENCODE writes are those of its pages and columns. -/
theorem State.mem_packedCells (s : State) (x : Host.Cell) : x ∈ s.packedCells ↔
    ∃ p c, p < s.gridH / 8 ∧ c < s.gridW ∧ x = (packedIndex s.gridW p c, s.packedByte p c) := by
  unfold State.packedCells
  simp only [List.mem_flatMap, List.mem_range, List.mem_map, Config.pageRows]
  constructor
  · rintro ⟨p, hp, c, hc, rfl⟩
    exact ⟨p, c, hp, hc, rfl⟩
  · rintro ⟨p, c, hp, hc, rfl⟩
    exact ⟨p, hp, c, hc, rfl⟩

/-- After ENCODE's writes the byte of page p and column c is the packed byte. -/
theorem State.memRead_packed (s : State) (p c : Nat) (hp : p < s.gridH / 8) (hc : c < s.gridW)
    (hcap : packedLen s.gridW s.gridH ≤ 1024) :
    (s.memWriteAll s.packedCells).memRead (packedIndex s.gridW p c) = s.packedByte p c := by
  apply State.memRead_memWriteAll_same
  · exact Nat.lt_of_lt_of_le (packedIndex_lt _ _ _ _ hp hc) hcap
  · intro x hx hxi
    obtain ⟨p', c', hp', hc', rfl⟩ := (s.mem_packedCells x).mp hx
    obtain ⟨rfl, rfl⟩ := packedIndex_inj _ _ _ _ _ hc' hc hxi
    rfl
  · exact ⟨_, (s.mem_packedCells _).mpr ⟨p, c, hp, hc, rfl⟩, rfl⟩

/-- ENCODE's writes leave a byte alone that no page and column has. -/
theorem State.memRead_packed_other (s : State) (a : Nat)
    (h : ∀ p c, p < s.gridH / 8 → c < s.gridW → a ≠ packedIndex s.gridW p c) :
    (s.memWriteAll s.packedCells).memRead a = s.memRead a := by
  apply State.memRead_memWriteAll_other
  intro x hx hxa
  obtain ⟨p, c, hp, hc, rfl⟩ := (s.mem_packedCells x).mp hx
  exact h p c hp hc hxa.symm

/-- A cell of the grid DECODE builds at accepted dimensions. -/
theorem State.px_unpackedGrid (s : State) (w h r c : Nat) (hw : w ≤ 128) (hh : h ≤ 64) :
    Grid.px (s.unpackedGrid w h) r c =
      if r < h ∧ c < w then
        decide (packedIndex w (r / 8) c < s.bufLen.toNat) && (s.memRead (packedIndex w (r / 8) c)).getLsbD (r % 8)
      else false := by
  unfold State.unpackedGrid
  rw [Grid.px_ofFn]
  simp only [Config.maxH, Config.maxW, Config.pageRows]
  split
  · next hrc => simp [show r < 64 by omega, show c < 128 by omega]
  · simp

/-- A cell of the grid RESIZE builds at accepted dimensions. -/
theorem State.px_resizedGrid (s : State) (w h r c : Nat) (hw : w ≤ 128) (hh : h ≤ 64) :
    Grid.px (s.resizedGrid w h) r c =
      if r < min s.gridH h ∧ c < min s.gridW w then s.pix r c else false := by
  unfold State.resizedGrid
  rw [Grid.px_ofFn]
  simp only [Config.maxH, Config.maxW]
  split
  · next hrc => simp [show r < 64 by omega, show c < 128 by omega]
  · simp

/-- A cell of the toggled grid. -/
theorem State.px_toggledGrid (s : State) (r0 c0 r c : Nat) (hr : r0 < 64) (hc : c0 < 128) :
    Grid.px (s.toggledGrid r0 c0) r c = if r = r0 ∧ c = c0 then !(s.pix r c) else s.pix r c := by
  unfold State.toggledGrid
  rw [Grid.px_ofFn]
  simp only [Config.maxH, Config.maxW]
  by_cases hin : r < 64 ∧ c < 128
  · simp [hin.1, hin.2]
  · have hout := Grid.px_outside s.grid r c (by simp only [Config.maxH, Config.maxW]; omega)
    have hne : ¬ (r = r0 ∧ c = c0) := by omega
    rw [if_neg hne, State.pix, hout]
    by_cases h1 : r < 64 <;> by_cases h2 : c < 128 <;> simp [h1, h2]

/-- A cell of the inverted grid. -/
theorem State.px_invertedGrid (s : State) (r c : Nat) : Grid.px s.invertedGrid r c =
    (decide (r < 64) && (decide (c < 128) &&
      if r < s.gridH ∧ c < s.gridW then !(s.pix r c) else s.pix r c)) := by
  unfold State.invertedGrid
  rw [Grid.px_ofFn]

end Sys2Proof.Machine
end

