-- ==== Sys2Proof/Laws/Exec.lean ====
section
/-! SUPPORT. What the meanings can do, said once: a host write, a guarded read, each command. -/
namespace Sys2Proof.Machine

/-- A host write while BUSY = 1. -/
theorem State.hostWrite_busy (s e : State) (h : s.status.busy = true) :
    s.hostWrite e = { s with status := { s.status with busyerr := true } } := by
  simp [State.hostWrite, h, State.dropWrite, State.warn, Status.record]

/-- A host write while BUSY = 0. -/
theorem State.hostWrite_idle (s e : State) (h : s.status.busy = false) : s.hostWrite e = e := by
  simp [State.hostWrite, h]

/-- A guarded read while BUSY = 1. -/
theorem State.guardedRead_busy (s e : State) (h : s.status.busy = true) : s.guardedRead e = s.answerDraw := by
  simp [State.guardedRead, h]

/-- A guarded read while BUSY = 0. -/
theorem State.guardedRead_idle (s e : State) (h : s.status.busy = false) : s.guardedRead e = e := by
  simp [State.guardedRead, h]

/-- The state a bus write reaches while BUSY = 0. -/
def State.writeEffect (s : State) : Instr → State
  | .wrCmd d => s.issue d
  | .wrStatus d => { s with status := s.status.hostWritten d }
  | .wrArgA d => { s with argA := d }
  | .wrArgB d => { s with argB := d }
  | .wrBufLen d => { s with bufLen := d.setWidth 16 }
  | .wrBufPtr d => { s with bufPtr := d.setWidth 16 }
  | .wrBufData d => (s.memWrite s.bufPtr.toNat (d.setWidth 8)).advancePtr
  | .wrPixSel d => { s with pixSel := d.setWidth 16 }
  | _ => s

/-- Every bus write is its effect, dropped while BUSY = 1. -/
theorem exec_write (s : State) (i : Instr) (h : isBusWrite i = true) :
    exec i s = .next (s.hostWrite (s.writeEffect i)) := by
  cases i <;> first | rfl | simp [isBusWrite] at h

/-- The register a bus read names. -/
def readReg : Instr → BusReg
  | .rdStatus => .status
  | .rdArgA => .argA
  | .rdArgB => .argB
  | .rdGridDim => .gridDim
  | .rdAdjH => .adjH
  | .rdBufLen => .bufLen
  | .rdBufPtr => .bufPtr
  | .rdBufData => .bufData
  | .rdPixSel => .pixSel
  | .rdPixVal => .pixVal
  | _ => .cmd

/-- Every bus read answers its register's value, or a draw where the read is guarded and BUSY = 1; RD BUF_DATA also
advances the pointer while BUSY = 0. -/
theorem exec_read (s : State) (i : Instr) (h : isBusRead i = true) :
    exec i s = .next (
      if isGuardedRead i && s.status.busy then s.answerDraw
      else if i = .rdBufData then (s.answer (s.regValue .bufData)).advancePtr
      else s.answer (s.regValue (readReg i))) := by
  cases hb : s.status.busy <;> cases i <;>
    simp_all [isBusRead, isGuardedRead, readReg, exec, execRdCmd, execRdStatus, execRdArgA, execRdArgB,
      execRdGridDim, execRdAdjH, execRdBufLen, execRdBufPtr, execRdBufData, execRdPixSel, execRdPixVal,
      State.guardedRead]

/-- ENCODE, field by field. -/
theorem exec_encode (s : State) : exec .encode s = .next { s with
    buf := (s.memWriteAll s.packedCells).buf
    bufLen := BitVec.ofNat 16 (packedLen s.gridW s.gridH)
    bufPtr := 0
    status := s.status.succeeded } := by
  show execEncode s = _
  unfold execEncode State.succeed
  rw [State.memWriteAll_eq]

/-- The bytes after an ENCODE are those of its writes. -/
theorem exec_encode_memRead (s t : State) (h : exec .encode s = .next t) (a : Nat) :
    t.memRead a = (s.memWriteAll s.packedCells).memRead a := by
  rw [exec_encode] at h
  have h := Host.Outcome.next.inj h
  subst h
  apply State.memRead_of_memWriteAll s _ s.packedCells <;> rfl

/-- DECODE at accepted dimensions has two ends: the refusal of a length mismatch, and the new grid. -/
theorem State.decodeChecked_cases (s : State) (force : Bool) (w h : Nat) :
    (s.bufLen.toNat ≠ packedLen w h ∧ force = false ∧
      s.decodeChecked force w h = { s with status := { s.status with lenmm := true, busy := false } })
    ∨ ((s.bufLen.toNat = packedLen w h ∨ force = true) ∧
      s.decodeChecked force w h = { s with
        grid := s.unpackedGrid w h, gridW := w, gridH := h
        status := { s.status with
          ok := true, busy := false
          lenmm := s.status.lenmm || decide (s.bufLen.toNat ≠ packedLen w h)
          short := s.status.short || decide (s.bufLen.toNat < packedLen w h) } }) := by
  unfold State.decodeChecked
  by_cases hl : s.bufLen.toNat = packedLen w h
  · right
    simp [hl, State.replaceGrid, State.succeed, Status.succeeded]
  · cases force
    · left
      simp [hl, State.warn, State.endCommand, Status.record, Status.ended]
    · right
      by_cases hs : s.bufLen.toNat < packedLen w h <;>
        simp [hl, hs, State.replaceGrid, State.succeed, Status.succeeded, State.warn, Status.record]

/-- The unpacked grid depends on the buffer alone. -/
theorem State.unpackedGrid_congr (s t : State) (hb : t.buf = s.buf) (hr : t.run = s.run)
    (hl : t.bufLen = s.bufLen) (w h : Nat) : t.unpackedGrid w h = s.unpackedGrid w h := by
  unfold State.unpackedGrid
  simp only [hl, State.memRead_congr s t hb hr]

/-- The resized grid depends on the old grid alone. -/
theorem State.resizedGrid_congr (s t : State) (hg : t.grid = s.grid) (hw : t.gridW = s.gridW)
    (hh : t.gridH = s.gridH) (w h : Nat) : t.resizedGrid w h = s.resizedGrid w h := by
  unfold State.resizedGrid
  simp only [hw, hh, State.pix_congr s t hg]

/-- The three ends of a DECODE. -/
theorem exec_decode_cases (s : State) (force : Bool) :
    let hn := normH s.argB.toInt
    let w := s.argA.toInt.toNat
    let h := hn.toNat
    let hadj := s.status.hadj || decide (hn ≠ s.argB.toInt)
    (validDims s.argA.toInt hn = false ∧
      exec (.decode force) s = .next { s with
        adjH := BitVec.ofInt 32 hn, status := { s.status with hadj := hadj, valerr := true, busy := false } })
    ∨ (validDims s.argA.toInt hn = true ∧ s.bufLen.toNat ≠ packedLen w h ∧ force = false ∧
      exec (.decode force) s = .next { s with
        adjH := BitVec.ofInt 32 hn, status := { s.status with hadj := hadj, lenmm := true, busy := false } })
    ∨ (validDims s.argA.toInt hn = true ∧ (s.bufLen.toNat = packedLen w h ∨ force = true) ∧
      exec (.decode force) s = .next { s with
        adjH := BitVec.ofInt 32 hn
        grid := s.unpackedGrid w h, gridW := w, gridH := h
        status := { s.status with
          hadj := hadj, ok := true, busy := false
          lenmm := s.status.lenmm || decide (s.bufLen.toNat ≠ packedLen w h)
          short := s.status.short || decide (s.bufLen.toNat < packedLen w h) } }) := by
  intro hn w h hadj
  show (_ ∧ execDecode force s = _) ∨ (_ ∧ _ ∧ _ ∧ execDecode force s = _) ∨ (_ ∧ _ ∧ execDecode force s = _)
  unfold execDecode State.operandA State.operandB
  rcases s.checkDims_cases s.argA.toInt s.argB.toInt with ⟨hv, hc⟩ | ⟨hv, hc⟩
  · rw [hc]
    right
    rcases State.decodeChecked_cases { s with
        adjH := BitVec.ofInt 32 hn
        status := { s.status with hadj := hadj } } force w h with ⟨hl, hf, hd⟩ | ⟨hl, hd⟩
    · exact .inl ⟨hv, hl, hf, congrArg _ hd⟩
    · refine .inr ⟨hv, hl, congrArg _ (hd.trans ?_)⟩
      rw [State.unpackedGrid_congr s _ rfl rfl rfl]
      rfl
  · rw [hc]
    exact .inl ⟨hv, rfl⟩

/-- The two ends of a RESIZE. -/
theorem exec_resize_cases (s : State) :
    let hn := normH s.argB.toInt
    let w := s.argA.toInt.toNat
    let h := hn.toNat
    let hadj := s.status.hadj || decide (hn ≠ s.argB.toInt)
    (validDims s.argA.toInt hn = false ∧
      exec .resize s = .next { s with
        adjH := BitVec.ofInt 32 hn, status := { s.status with hadj := hadj, valerr := true, busy := false } })
    ∨ (validDims s.argA.toInt hn = true ∧
      exec .resize s = .next { s with
        adjH := BitVec.ofInt 32 hn
        grid := s.resizedGrid w h, gridW := w, gridH := h
        status := { s.status with hadj := hadj, ok := true, busy := false } }) := by
  intro hn w h hadj
  show (_ ∧ execResize s = _) ∨ (_ ∧ execResize s = _)
  unfold execResize State.operandA State.operandB
  rcases s.checkDims_cases s.argA.toInt s.argB.toInt with ⟨hv, hc⟩ | ⟨hv, hc⟩
  · rw [hc]
    refine .inr ⟨hv, ?_⟩
    exact congrArg (fun g => Host.Outcome.next { s with
        adjH := BitVec.ofInt 32 hn
        grid := g, gridW := w, gridH := h
        status := { s.status with hadj := hadj, ok := true, busy := false } })
      (State.resizedGrid_congr s { s with
        adjH := BitVec.ofInt 32 hn, status := { s.status with hadj := hadj } } rfl rfl rfl w h)
  · rw [hc]
    exact .inl ⟨hv, rfl⟩

/-- TOGGLE, inside the grid and outside it. -/
theorem exec_toggle_cases (s : State) :
    (0 ≤ s.argA.toInt ∧ s.argA.toInt < s.gridH ∧ 0 ≤ s.argB.toInt ∧ s.argB.toInt < s.gridW ∧
      exec .toggle s = .next { s with
        grid := s.toggledGrid s.argA.toInt.toNat s.argB.toInt.toNat, status := s.status.succeeded })
    ∨ (¬ (0 ≤ s.argA.toInt ∧ s.argA.toInt < s.gridH ∧ 0 ≤ s.argB.toInt ∧ s.argB.toInt < s.gridW) ∧
      exec .toggle s = .next { s with status := s.status.succeeded }) := by
  show (_ ∧ _ ∧ _ ∧ _ ∧ execToggle s = _) ∨ (_ ∧ execToggle s = _)
  unfold execToggle State.operandA State.operandB
  split
  · next h => exact .inl ⟨h.1, h.2.1, h.2.2.1, h.2.2.2, rfl⟩
  · next h => exact .inr ⟨h, rfl⟩

/-- INVERT, field by field. -/
theorem exec_invert (s : State) :
    exec .invert s = .next { s with grid := s.invertedGrid, status := s.status.succeeded } := rfl

/-- Every instruction is a command, a bus read or a bus write. -/
theorem instr_kinds (i : Instr) : isCommand i = true ∨ isBusRead i = true ∨ isBusWrite i = true := by
  cases i <;> simp [isCommand, isBusRead, isBusWrite]

/-- No meaning ends in a fault or a refusal. -/
theorem exec_answers_next (i : Instr) (s : State) : ∃ t, exec i s = .next t := by
  rcases instr_kinds i with h | h | h
  · cases i <;> simp [isCommand] at h
    · exact ⟨_, exec_encode s⟩
    · next f =>
      rcases exec_decode_cases s f with ⟨_, h⟩ | ⟨_, _, _, h⟩ | ⟨_, _, h⟩ <;> exact ⟨_, h⟩
    · rcases exec_resize_cases s with ⟨_, h⟩ | ⟨_, h⟩ <;> exact ⟨_, h⟩
    · rcases exec_toggle_cases s with ⟨_, _, _, _, h⟩ | ⟨_, h⟩ <;> exact ⟨_, h⟩
    · exact ⟨_, exec_invert s⟩
  · exact ⟨_, exec_read s i h⟩
  · exact ⟨_, exec_write s i h⟩

end Sys2Proof.Machine
end

