-- ==== Sys2Proof/Laws/Step.lean ====
section
/-! SUPPORT. What one step can do, said once. -/
namespace Sys2Proof.Machine

/-- The selectors' decoder answers bus transactions only. -/
theorem decodeBus_isBus (sel : BitVec 9) (data : Word) (i : Instr) (h : decodeBus sel data = .ok i) :
    isBusRead i = true ∨ isBusWrite i = true := by
  unfold decodeBus at h
  split at h <;> first | (cases h; simp [isBusRead, isBusWrite]) | (split at h <;> cases h)

/-- The command words' decoder answers commands only. -/
theorem decodeCmd_isCommand (w : Word) (i : Instr) (h : decodeCmd w = .ok i) : isCommand i = true := by
  unfold decodeCmd at h
  split at h
  · cases h
  · split at h <;> cases h <;> rfl

/-- A read's bound value changes the host's variables alone. -/
theorem State.bindRead_eq (s : State) (sel : BitVec 9) (bind : Option Nat) : s.bindRead sel bind =
    { s with vars := match bind with
      | some v => if selIsWrite sel then s.vars else assocSet v s.rdata s.vars
      | none => s.vars } := by
  unfold State.bindRead
  cases bind with
  | none => rfl
  | some v => dsimp only; split <;> rfl

/-- No meaning touches the host's dealings with its user. -/
theorem exec_session (i : Instr) (s t : State) (h : exec i s = .next t) : t.session = s.session := by
  rcases instr_kinds i with hk | hk | hk
  · cases i <;> simp [isCommand] at hk
    · rw [exec_encode] at h; exact (Host.Outcome.next.inj h) ▸ rfl
    · next f =>
      rcases exec_decode_cases s f with ⟨_, e⟩ | ⟨_, _, _, e⟩ | ⟨_, _, e⟩ <;>
        exact (Host.Outcome.next.inj (e.symm.trans h)) ▸ rfl
    · rcases exec_resize_cases s with ⟨_, e⟩ | ⟨_, e⟩ <;> exact (Host.Outcome.next.inj (e.symm.trans h)) ▸ rfl
    · rcases exec_toggle_cases s with ⟨_, _, _, _, e⟩ | ⟨_, e⟩ <;>
        exact (Host.Outcome.next.inj (e.symm.trans h)) ▸ rfl
    · exact (Host.Outcome.next.inj h) ▸ rfl
  · rw [exec_read s i hk] at h
    rw [← Host.Outcome.next.inj h]
    split <;> [rfl; split <;> rfl]
  · rw [exec_write s i hk] at h
    rw [← Host.Outcome.next.inj h]
    cases hb : s.status.busy
    · rw [State.hostWrite_idle s _ hb]
      cases i <;> simp [State.writeEffect]
    · rw [State.hostWrite_busy s _ hb]

/-- What a host line that makes no bus access can do to the host's dealings with its user. -/
structure Dialogue (s : State) (ss : Session) : Prop where
  bound : ss.bound = s.session.bound
  awaiting : ss.awaiting = s.session.awaiting
  refused : ss.refused = s.session.refused
  consent : ss.consent = s.session.consent ∨ ss.consent = none
    ∨ ss.consent = some s.choice ∧ s.session.awaiting = false ∧ s.session.answer = true
      ∧ ∃ l, s.prog[s.pos]? = some (.ask l)
  reported : ss.reported = s.session.reported
    ∨ s.session.awaiting = false ∧ ∀ n ∈ s.notices, n ∈ ss.shown

theorem Dialogue.same (s : State) : Dialogue s s.session := ⟨rfl, rfl, rfl, .inl rfl, .inl rfl⟩

/-- A jump that reaches a next state changes the place alone. -/
theorem State.jumpTo_next (s t : State) (l : Nat) (h : s.jumpTo l = .next t) : ∃ p, t = { s with pos := p } := by
  unfold State.jumpTo at h
  split at h
  · next p _ => exact ⟨p, (Host.Outcome.next.inj h).symm⟩
  · cases h

/-- A variable's value is gone on with only where it is bound. -/
theorem State.withVar_next (s t : State) (v : Nat) (go : Word → Result) (h : s.withVar v go = .next t) :
    ∃ w, assocGet v s.vars = some w ∧ go w = .next t := by
  unfold State.withVar at h
  split at h
  · cases h
  · next w hw => exact ⟨w, hw, h⟩

/-- The answer to a question: a proceed counts only where given, after the command's end was seen. -/
theorem State.asked_dialogue (s : State) (l : Nat) (h : s.prog[s.pos]? = some (.ask l)) :
    Dialogue s s.asked.session where
  bound := rfl
  awaiting := rfl
  refused := rfl
  consent := by
    right
    show (if s.session.answer && !s.session.awaiting then some s.choice else none) = none
      ∨ (if s.session.answer && !s.session.awaiting then some s.choice else none) = some s.choice ∧ _
    cases hw : s.session.awaiting <;> cases ha : s.session.answer <;> simp [h]
  reported := .inl rfl

/-- A report meets the notices' duty only by showing them all, after the command's end was seen. -/
theorem State.reportNotices_dialogue (s : State) (status adjH : Word) :
    Dialogue s (s.reportNotices status adjH).session where
  bound := rfl
  awaiting := rfl
  refused := rfl
  consent := .inl rfl
  reported := by
    show (s.session.reported || (!s.session.awaiting && decide (noticesOf status adjH = s.notices))) = _ ∨ _
    cases hw : s.session.awaiting
    · by_cases hn : noticesOf status adjH = s.notices
      · right
        refine ⟨rfl, fun n hm => ?_⟩
        show n ∈ s.session.shown ++ noticesOf status adjH
        rw [hn]
        exact List.mem_append_right _ hm
      · left; simp [hn]
    · left; simp

/-- What a host line can do to the dealings with the user is the same in the counted state. -/
theorem Dialogue.ofCounted (s : State) (ss : Session) (h : Dialogue s.sampled.counted ss) : Dialogue s ss where
  bound := by simpa using h.bound
  awaiting := by simpa using h.awaiting
  refused := by simpa using h.refused
  consent := by simpa [State.choice] using h.consent
  reported := by simpa [State.notices] using h.reported

/-- Setting the reading line's count touches none of the duties. -/
theorem Dialogue.loop (s : State) (n : Nat) : Dialogue s { s.session with loop := n } :=
  ⟨rfl, rfl, rfl, .inl rfl, .inl rfl⟩

/-- A bus access of the host that reaches a next state: the transaction, its value bound, the access noted. -/
theorem busAccess_next (width : Nat) (sel : BitVec 9) (data : Word) (bind : Option Nat) (go : State → State)
    (s t : State) (h : busAccess exec width sel data bind go s = .next t) :
    width = Config.accessBits ∧ ∃ i u, decodeBus sel data = .ok i ∧ exec i s = .next u
      ∧ t = go ((u.bindRead sel bind).noted i s.status.busy) := by
  unfold busAccess at h
  split at h
  · next hw =>
    cases hd : decodeBus sel data with
    | error e => rw [hd] at h; cases h
    | ok i =>
      rw [hd] at h
      obtain ⟨u, hu⟩ := exec_answers_next i s
      simp only [hu] at h
      exact ⟨hw, i, u, rfl, hu, (Host.Outcome.next.inj h).symm⟩
  · cases h

/-- The host makes the bus access of its next step, and no more than that. -/
def HostAccess (s t : State) : Prop :=
  ∃ i u p vs n, s.nextAccess = some i ∧ (isBusRead i = true ∨ isBusWrite i = true)
    ∧ exec i s.sampled.counted = .next u
    ∧ (assocRising none u.vars = true → assocRising none vs = true)
    ∧ t = { u with
        pos := p, vars := vs, session := { s.session.note i s.status.busy u.rdata with loop := n } }

/-- The host performs a line that makes no bus access. -/
def HostLineOnly (s t : State) : Prop :=
  s.nextAccess = none ∧ ∃ p ss, Dialogue s ss ∧ t = { s.sampled.counted with pos := p, session := ss }

/-- A bus access made, whatever follows it in the host. -/
theorem hostAccess_of (s t u : State) (i : Instr) (sel : BitVec 9) (data : Word) (bind : Option Nat) (p n : Nat)
    (hn : s.nextAccess = some i) (hd : decodeBus sel data = .ok i) (hu : exec i s.sampled.counted = .next u)
    (ht : t = { (u.bindRead sel bind) with
      pos := p, session := { u.session.note i s.status.busy u.rdata with loop := n } }) : HostAccess s t := by
  have hs : u.session = s.session := by simpa using exec_session i _ u hu
  rw [State.bindRead_eq, hs] at ht
  refine ⟨i, u, p, _, n, hn, decodeBus_isBus sel data i hd, hu, ?_, ht⟩
  intro hr
  cases bind with
  | none => exact hr
  | some v =>
    dsimp only
    split
    · exact hr
    · exact assocRising_assocSet _ _ _ none hr (by simp)

/-- What a host line can do where it reaches a next state. -/
theorem hostLine_cases (s t : State) (line : HostLine) (hl : s.prog[s.pos]? = some line)
    (h : hostLine exec line s.sampled.counted = .next t) : HostAccess s t ∨ HostLineOnly s t := by
  have hjump : ∀ l, s.sampled.counted.jumpTo l = .next t → ∃ p ss, Dialogue s ss ∧
      t = { s.sampled.counted with pos := p, session := ss } := by
    intro l hj
    obtain ⟨p, rfl⟩ := State.jumpTo_next _ _ l hj
    exact ⟨p, s.session, .same s, by simp⟩
  have hnext : t = s.sampled.counted.nextLine → ∃ p ss, Dialogue s ss ∧
      t = { s.sampled.counted with pos := p, session := ss } := by
    rintro rfl
    exact ⟨s.pos + 1, s.session, .same s, by simp [State.nextLine]⟩
  cases line with
  | bus width sel data bind =>
    obtain ⟨hw, i, u, hd, hu, ht⟩ := busAccess_next _ _ _ _ _ _ _ h
    have hn : s.nextAccess = some i := by simp [State.nextAccess, hl, hw, hd, Except.toOption]
    refine .inl (hostAccess_of s t u i sel data bind (u.pos + 1)
      (u.session.note i s.status.busy u.rdata).loop hn hd hu ?_)
    subst ht
    simp [State.nextLine, State.noted, State.setSession]
  | readBytes count first =>
    obtain ⟨n, hv, h⟩ := State.withVar_next _ _ _ _ h
    have hv : assocGet count s.vars = some n := by simpa using hv
    unfold readByte at h
    split at h
    · next hlt =>
      have hlt : s.session.loop < n.toNat := by simpa using hlt
      obtain ⟨-, i, u, hd, hu, ht⟩ := busAccess_next _ _ _ _ _ _ _ h
      have hd' : i = .rdBufData := (Except.ok.inj (hd.symm.trans rfl))
      subst hd'
      refine .inl (hostAccess_of s t u _ (selector false .bufData) 0 (some (first + s.session.loop)) u.pos
        ((u.session.note .rdBufData s.status.busy u.rdata).loop + 1)
        (by simp [State.nextAccess, hl, hv, hlt]) hd hu ?_)
      subst ht
      simp [State.nextByte, State.setLoop, State.noted, State.setSession]
    · next hge =>
      have hge : ¬ s.session.loop < n.toNat := by simpa using hge
      refine .inr ⟨by simp [State.nextAccess, hl, hv, hge], s.pos + 1, _, .loop s 0, ?_⟩
      rw [← Host.Outcome.next.inj h]
      simp [State.setLoop, State.setSession, State.nextLine]
  | label l => exact .inr ⟨by simp [State.nextAccess, hl], hnext (Host.Outcome.next.inj h).symm⟩
  | goto l => exact .inr ⟨by simp [State.nextAccess, hl], hjump l h⟩
  | bit1 v n l =>
    obtain ⟨w, -, h⟩ := State.withVar_next _ _ _ _ h
    refine .inr ⟨by simp [State.nextAccess, hl], ?_⟩
    split at h
    · exact hjump l h
    · exact hnext (Host.Outcome.next.inj h).symm
  | check v value =>
    obtain ⟨w, -, h⟩ := State.withVar_next _ _ _ _ h
    refine .inr ⟨by simp [State.nextAccess, hl], ?_⟩
    split at h
    · exact hnext (Host.Outcome.next.inj h).symm
    · cases h
  | tell n =>
    refine .inr ⟨by simp [State.nextAccess, hl], s.pos + 1, (s.show [n]).session,
      ⟨rfl, rfl, rfl, .inl rfl, .inl rfl⟩, ?_⟩
    rw [← Host.Outcome.next.inj h]
    simp [State.show, State.setSession, State.nextLine]
  | report v a =>
    obtain ⟨w, -, h⟩ := State.withVar_next _ _ _ _ h
    obtain ⟨x, -, h⟩ := State.withVar_next _ _ _ _ h
    refine .inr ⟨by simp [State.nextAccess, hl], s.pos + 1, _,
      .ofCounted s _ (State.reportNotices_dialogue _ w x), ?_⟩
    rw [← Host.Outcome.next.inj h]
    simp [State.reportNotices, State.setSession, State.nextLine]
  | ask l =>
    have hd : Dialogue s s.sampled.counted.asked.session :=
      .ofCounted s _ (State.asked_dialogue _ l (by simpa using hl))
    refine .inr ⟨by simp [State.nextAccess, hl], ?_⟩
    simp only [hostLine] at h
    split at h
    · obtain ⟨p, rfl⟩ := State.jumpTo_next _ _ l h
      exact ⟨p, _, hd, rfl⟩
    · exact ⟨s.pos + 1, _, hd, by rw [← Host.Outcome.next.inj h]; simp [State.nextLine, State.asked, State.setSession]⟩
  | output count first =>
    obtain ⟨n, -, h⟩ := State.withVar_next _ _ _ _ h
    split at h
    · next bytes _ =>
      refine .inr ⟨by simp [State.nextAccess, hl], s.pos + 1, (s.give (exportText bytes)).session,
        ⟨rfl, rfl, rfl, .inl rfl, .inl rfl⟩, ?_⟩
      rw [← Host.Outcome.next.inj h]
      simp [State.give, State.setSession, State.nextLine]
    · cases h

/-- One step that reaches a next state is: the reset; the block completing a legal command; the block completing an
illegal word; the idle step; the host's admitted bus access; or a host line that makes none. A bound host's last three
break no duty. -/
theorem step_cases (s t : State) (h : step s = .next t) :
    (s.resetAsserted = true ∧ t = s.applyReset)
    ∨ (s.blockCompletes = true ∧ ∃ i, decodeCmd s.pend = .ok i ∧ exec i s.sampled = .next t)
    ∨ (s.blockCompletes = true ∧ (∃ e, decodeCmd s.pend = .error e) ∧ t = s.sampled.raise .illcmd)
    ∨ (s.hostMoves = true ∧ s.breaksDuty = false ∧ s.prog[s.pos]? = none ∧ t = s.sampled)
    ∨ (s.hostMoves = true ∧ s.breaksDuty = false ∧ HostAccess s t)
    ∨ (s.hostMoves = true ∧ s.breaksDuty = false ∧ HostLineOnly s t) := by
  unfold step stepWith at h
  cases hr : s.resetAsserted with
  | true =>
    simp only [hr, if_true] at h
    exact .inl ⟨rfl, (Host.Outcome.next.inj h).symm⟩
  | false =>
    right
    simp only [hr, Bool.false_eq_true, if_false] at h
    cases hb : s.sampled.blockMoves with
    | true =>
      have hc : s.blockCompletes = true := by simp [State.blockCompletes, hr, hb]
      simp only [hb, if_true] at h
      unfold blockStep at h
      simp only [State.sampled_pend] at h
      cases hd : decodeCmd s.pend with
      | ok i =>
        rw [hd] at h
        exact .inl ⟨hc, i, rfl, h⟩
      | error e =>
        rw [hd] at h
        exact .inr (.inl ⟨hc, ⟨e, rfl⟩, (Host.Outcome.next.inj h).symm⟩)
    | false =>
      have hm : s.hostMoves = true := by simp [State.hostMoves, hr, hb]
      right; right
      simp only [hb, Bool.false_eq_true, if_false] at h
      split at h
      · cases h
      · next hbd =>
        have hbd : s.breaksDuty = false := by simpa using hbd
        cases hl : s.prog[s.pos]? with
        | none =>
          rw [hl] at h
          exact .inl ⟨hm, hbd, rfl, (Host.Outcome.next.inj h).symm⟩
        | some line =>
          rw [hl] at h
          rcases hostLine_cases s t line hl h with h | h
          · exact .inr (.inl ⟨hm, hbd, h⟩)
          · exact .inr (.inr ⟨hm, hbd, h⟩)

/-- A run of one more step, where the first step reaches a next state. -/
theorem run_succ_of_step (k : Nat) (s t : State) (h : step s = .next t) :
    Host.Core.run core (k + 1) s = Host.Core.run core k t := by
  have h' : core.step s = .next t := h
  simp only [Host.Core.run, h']

/-- A run of one more step that reaches a next state goes through one. -/
theorem step_of_run_succ (k : Nat) (s t : State) (h : Host.Core.run core (k + 1) s = .next t) :
    ∃ u, step s = .next u ∧ Host.Core.run core k u = .next t := by
  cases hs : step s with
  | next u => exact ⟨u, rfl, (run_succ_of_step k s u hs).symm.trans h⟩
  | fault f =>
    have h' : core.step s = .fault f := hs
    simp only [Host.Core.run, h'] at h
    cases h
  | refused r =>
    have h' : core.step s = .refused r := hs
    simp only [Host.Core.run, h'] at h
    cases h

end Sys2Proof.Machine
end

