-- ==== Sys2Proof/Laws/PerInstr.lean ====
section
/-! SUPPORT. Per-instruction lemmas: the encoding of each instruction decodes to it. -/
namespace Sys2Proof.Laws.RoundTrip

/-- An instruction is well formed and its encoded object decodes to it (30_encoding.md R48 to R50). -/
def Statement (i : Instr) : Prop := i.wellFormed = true ∧ decode (encode i) = .ok i

theorem encode : Statement .encode := ⟨rfl, rfl⟩
theorem decode (force : Bool) : Statement (.decode force) := ⟨rfl, by cases force <;> rfl⟩
theorem resize : Statement .resize := ⟨rfl, rfl⟩
theorem toggle : Statement .toggle := ⟨rfl, rfl⟩
theorem invert : Statement .invert := ⟨rfl, rfl⟩
theorem rdCmd : Statement .rdCmd := ⟨rfl, rfl⟩
theorem wrCmd (data : Word) : Statement (.wrCmd data) := ⟨rfl, rfl⟩
theorem rdStatus : Statement .rdStatus := ⟨rfl, rfl⟩
theorem wrStatus (data : Word) : Statement (.wrStatus data) := ⟨rfl, rfl⟩
theorem rdArgA : Statement .rdArgA := ⟨rfl, rfl⟩
theorem wrArgA (data : Word) : Statement (.wrArgA data) := ⟨rfl, rfl⟩
theorem rdArgB : Statement .rdArgB := ⟨rfl, rfl⟩
theorem wrArgB (data : Word) : Statement (.wrArgB data) := ⟨rfl, rfl⟩
theorem rdGridDim : Statement .rdGridDim := ⟨rfl, rfl⟩
theorem wrGridDim (data : Word) : Statement (.wrGridDim data) := ⟨rfl, rfl⟩
theorem rdAdjH : Statement .rdAdjH := ⟨rfl, rfl⟩
theorem wrAdjH (data : Word) : Statement (.wrAdjH data) := ⟨rfl, rfl⟩
theorem rdBufLen : Statement .rdBufLen := ⟨rfl, rfl⟩
theorem wrBufLen (data : Word) : Statement (.wrBufLen data) := ⟨rfl, rfl⟩
theorem rdBufPtr : Statement .rdBufPtr := ⟨rfl, rfl⟩
theorem wrBufPtr (data : Word) : Statement (.wrBufPtr data) := ⟨rfl, rfl⟩
theorem rdBufData : Statement .rdBufData := ⟨rfl, rfl⟩
theorem wrBufData (data : Word) : Statement (.wrBufData data) := ⟨rfl, rfl⟩
theorem rdPixSel : Statement .rdPixSel := ⟨rfl, rfl⟩
theorem wrPixSel (data : Word) : Statement (.wrPixSel data) := ⟨rfl, rfl⟩
theorem rdPixVal : Statement .rdPixVal := ⟨rfl, rfl⟩
theorem wrPixVal (data : Word) : Statement (.wrPixVal data) := ⟨rfl, rfl⟩

end Sys2Proof.Laws.RoundTrip
end

