-- ==== Sys2Proof/Tests/Slice0.lean ====
section
/-! SUPPORT. Tests: ill-formed terms refused, each instruction's word decoded, the vectors of
95_test_vectors.md one step at a time, and for each obligation with hypotheses a witness that meets them. -/
namespace Sys2Proof.Tests
open Sys2Proof.Machine
set_option Elab.async false

/-! States. -/

/-- A grid with the pixels listed on (the convention of 95_test_vectors.md). -/
def gridOf (on : List (Nat × Nat)) : Grid := Grid.ofFn fun r c => on.contains (r, c)

/-- A state between issue and completion: the command word pending, its host steps passed. -/
def pending (w : Word) : State :=
  { State.reset with
    pend := w, status := ⟨true, false, false, false, false, false, false, false⟩
    session := State.reset.session.issued }

/-- A pending command on a W by H grid with the pixels listed on. -/
def onGrid (w h : Nat) (on : List (Nat × Nat)) : State :=
  { pending 0 with gridW := w, gridH := h, grid := gridOf on }

/-- A state whose host has one line to perform. -/
def withLine (s : State) (line : HostLine) : State := { s with prog := [line], delay := 1 }

/-- A host bound to its duties, with one line to perform. -/
def boundLine (s : State) (line : HostLine) : State :=
  { withLine s line with session := { s.session with bound := true } }

/-- After a DECODE 1 by 10 of a buffer of 2 bytes, polled: refused for its length, the height adjusted to 8. -/
def refusedDecode : State :=
  { State.reset with
    status := ⟨false, false, false, true, false, true, false, false⟩, adjH := 8
    session := { State.reset.session with refused := true } }

/-- A field of the state reached. -/
def after {α : Type} (r : Result) (f : State → α) : Option α :=
  match r with
  | .next t => some (f t)
  | .fault _ => none
  | .refused _ => none

/-- The selected pixels of a state. -/
def pixels (s : State) (at_ : List (Nat × Nat)) : List Bool := at_.map fun p => s.pix p.1 p.2

/-! Well-formedness: an ill-formed term for each check. -/

theorem test_wf_width : HostLine.wellFormed (.bus 16 0x000 0 none) = false := by decide
theorem test_wf_misaligned : HostLine.wellFormed (.bus 32 0x002 0 none) = false := by decide
theorem test_wf_unmapped : HostLine.wellFormed (.bus 32 0x02C 0 none) = false := by decide
theorem test_wf_write_binds : HostLine.wellFormed (.bus 32 0x108 0 (some 1)) = false := by decide
theorem test_wf_bit_number : HostLine.wellFormed (.bit1 0 32 0) = false := by decide
theorem test_wf_label_twice : programWellFormed [.label 1, .label 1] = false := by decide
theorem test_wf_label_missing : programWellFormed [.label 1, .goto 2] = false := by decide
theorem test_wf_illegal_word : (Encoded.cmd 0x11).wellFormed = false := by decide
theorem test_wf_bad_selector : (Encoded.bus 0x1FC 0).wellFormed = false := by decide
theorem test_wf_wait_loop : programWellFormed (waitLines 0 1) = true := by decide

/-! Decoding: one word for each constructor, written out bit by bit: CMD32 as RSV, F, OP (30_encoding.md R49, R50),
BUS9 as W, OFF (R48, 40_host_bus.md R82). -/

theorem test_decode_encode : decodeTableWord 32 0b000000000000000000000000000_0_0001 = some .encode := by decide
theorem test_decode_decode : decodeTableWord 32 0b000000000000000000000000000_0_0010 = some (.decode false) := by decide
theorem test_decode_force : decodeTableWord 32 0b000000000000000000000000000_1_0010 = some (.decode true) := by decide
theorem test_decode_resize : decodeTableWord 32 0b000000000000000000000000000_0_0011 = some .resize := by decide
theorem test_decode_toggle : decodeTableWord 32 0b000000000000000000000000000_0_0100 = some .toggle := by decide
theorem test_decode_invert : decodeTableWord 32 0b000000000000000000000000000_0_0101 = some .invert := by decide
theorem test_decode_rdCmd : decodeBus 0b0_00000000 9 = .ok .rdCmd := by rfl
theorem test_decode_wrCmd : decodeBus 0b1_00000000 9 = .ok (.wrCmd 9) := by rfl
theorem test_decode_rdStatus : decodeBus 0b0_00000100 9 = .ok .rdStatus := by rfl
theorem test_decode_wrStatus : decodeBus 0b1_00000100 9 = .ok (.wrStatus 9) := by rfl
theorem test_decode_rdArgA : decodeBus 0b0_00001000 9 = .ok .rdArgA := by rfl
theorem test_decode_wrArgA : decodeBus 0b1_00001000 9 = .ok (.wrArgA 9) := by rfl
theorem test_decode_rdArgB : decodeBus 0b0_00001100 9 = .ok .rdArgB := by rfl
theorem test_decode_wrArgB : decodeBus 0b1_00001100 9 = .ok (.wrArgB 9) := by rfl
theorem test_decode_rdGridDim : decodeBus 0b0_00010000 9 = .ok .rdGridDim := by rfl
theorem test_decode_wrGridDim : decodeBus 0b1_00010000 9 = .ok (.wrGridDim 9) := by rfl
theorem test_decode_rdAdjH : decodeBus 0b0_00010100 9 = .ok .rdAdjH := by rfl
theorem test_decode_wrAdjH : decodeBus 0b1_00010100 9 = .ok (.wrAdjH 9) := by rfl
theorem test_decode_rdBufLen : decodeBus 0b0_00011000 9 = .ok .rdBufLen := by rfl
theorem test_decode_wrBufLen : decodeBus 0b1_00011000 9 = .ok (.wrBufLen 9) := by rfl
theorem test_decode_rdBufPtr : decodeBus 0b0_00011100 9 = .ok .rdBufPtr := by rfl
theorem test_decode_wrBufPtr : decodeBus 0b1_00011100 9 = .ok (.wrBufPtr 9) := by rfl
theorem test_decode_rdBufData : decodeBus 0b0_00100000 9 = .ok .rdBufData := by rfl
theorem test_decode_wrBufData : decodeBus 0b1_00100000 9 = .ok (.wrBufData 9) := by rfl
theorem test_decode_rdPixSel : decodeBus 0b0_00100100 9 = .ok .rdPixSel := by rfl
theorem test_decode_wrPixSel : decodeBus 0b1_00100100 9 = .ok (.wrPixSel 9) := by rfl
theorem test_decode_rdPixVal : decodeBus 0b0_00101000 9 = .ok .rdPixVal := by rfl
theorem test_decode_wrPixVal : decodeBus 0b1_00101000 9 = .ok (.wrPixVal 9) := by rfl

/-- The table's number of a transaction with its DATA in bits 47:16. -/
theorem test_decode_with_data : decodeTableWord 48 0xFFFFFFFD0108 = some (.wrArgA 0xFFFFFFFD) := by decide

/-- 95_test_vectors.md X1 to X8: none is a command, and each is refused for its own reason. -/
theorem test_decode_illegal_words :
    [0x0, 0x6, 0xF, 0x11, 0x13, 0x101, 0x80000002, 0x22].map (fun w => (decodeCmd w).toOption.isNone)
      = [true, true, true, true, true, true, true, true]
    ∧ decodeCmd 0x6 = .error .illegalOp ∧ decodeCmd 0x13 = .error .forceWithoutDecode
    ∧ decodeCmd 0x22 = .error .reservedBits := by
  refine ⟨by decide, rfl, rfl, rfl⟩

/-- 30_encoding.md R57: the examples. -/
theorem test_encode_examples : encode (.wrArgA 0xFFFFFFFD) = .bus 0x108 0xFFFFFFFD
    ∧ encode (.wrCmd 0x12) = .bus 0x100 0x12 ∧ encode .rdStatus = .bus 0x004 0 := by decide

/-! Commands. -/

/-- 95_test_vectors.md E2. -/
theorem test_encode_E2 :
    after (exec .encode (onGrid 2 16 [(1, 0), (14, 0), (8, 1), (9, 1)])) (fun t =>
      ([0, 1, 2, 3].map t.memRead, t.bufLen, t.bufPtr, t.status.word))
    = some ([0x02, 0x00, 0x40, 0x03], 4, 0, 0x02) := by decide +kernel

/-- 95_test_vectors.md E6: bytes past the encoded length stay. -/
theorem test_encode_E6 :
    after (exec .encode { onGrid 1 8 [] with buf := [(1, 0xAA), (2, 0xAA), (3, 0xAA)], bufPtr := 9 }) (fun t =>
      ([0, 1, 2, 3].map t.memRead, t.bufLen, t.bufPtr, t.status.word))
    = some ([0x00, 0xAA, 0xAA, 0xAA], 1, 0, 0x02) := by decide +kernel

/-- 95_test_vectors.md DC2: a short buffer, forced. -/
theorem test_decode_DC2 :
    after (exec (.decode true) { pending 0x12 with
        buf := [(0, 0xFF), (1, 0x01), (2, 0x80)], bufLen := 3, argA := 2, argB := 16 }) (fun t =>
      (t.gridW, t.gridH, t.adjH, t.status.word,
        pixels t [(0, 0), (7, 0), (8, 0), (15, 0), (0, 1), (1, 1), (8, 1), (15, 1)]))
    = some (2, 16, 16, 0x1A, [true, true, false, true, true, false, false, false]) := by decide +kernel

/-- 95_test_vectors.md DC13: a length mismatch after normalization, refused. -/
theorem test_decode_DC13 :
    after (exec (.decode false) { pending 0x2 with
        buf := [(0, 0x01), (1, 0x01)], bufLen := 2, argA := 1, argB := 10 }) (fun t =>
      (t.gridW, t.gridH, t.adjH, t.status.word, pixels t [(0, 0)]))
    = some (128, 64, 8, 0x28, [false]) := by decide +kernel

/-- 95_test_vectors.md RS3: shrinking drops the pixels outside the overlap. -/
theorem test_resize_RS3 :
    after (exec .resize { onGrid 1 16 [(8, 0), (0, 0)] with argA := 1, argB := 8 }) (fun t =>
      (t.gridW, t.gridH, t.adjH, t.status.word, pixels t [(0, 0), (8, 0)]))
    = some (1, 8, 8, 0x02, [true, false]) := by decide +kernel

/-- 95_test_vectors.md RS11: the largest height is normalized, reported and rejected. -/
theorem test_resize_RS11 :
    after (exec .resize { onGrid 5 8 [(1, 1)] with argA := 8, argB := 0x7FFFFFFF }) (fun t =>
      (t.gridW, t.gridH, t.adjH, t.status.word, pixels t [(1, 1)]))
    = some (5, 8, 0x7FFFFFF8, 0x24, [true]) := by decide +kernel

/-- 95_test_vectors.md T7: the last pixel of the largest grid. -/
theorem test_toggle_T7 :
    after (exec .toggle { pending 0x4 with argA := 63, argB := 127 }) (fun t =>
      (t.status.word, pixels t [(63, 127), (63, 126), (62, 127), (0, 0)]))
    = some (0x02, [true, false, false, false]) := by decide +kernel

/-- 95_test_vectors.md T6: row 8 is outside an 8-tall grid. -/
theorem test_toggle_T6 :
    after (exec .toggle { onGrid 4 8 [] with argA := 8, argB := 0 }) (fun t =>
      (t.status.word, pixels t [(8, 0), (0, 0)]))
    = some (0x02, [false, false]) := by decide +kernel

/-- 95_test_vectors.md I3, and the cells outside stay off. -/
theorem test_invert_I3 :
    after (exec .invert (onGrid 2 8 [(3, 1)])) (fun t =>
      (t.status.word, pixels t [(3, 0), (3, 1), (7, 1), (8, 1), (3, 2)]))
    = some (0x02, [true, false, true, false, false]) := by decide +kernel

/-- 95_test_vectors.md X1 to X8: STATUS = 0x40, ADJ_H unwritten. -/
theorem test_illegal_words_complete :
    [0x0, 0x6, 0xF, 0x11, 0x13, 0x101, 0x80000002, 0x22].map (fun w =>
      after (step { pending w with argA := 16, argB := 10 }) (fun t => (t.status.word, t.adjH, t.gridW)))
    = List.replicate 8 (some (0x40, 0, 128)) := by decide +kernel

/-- 95_test_vectors.md section 2.8. -/
theorem test_normH_table :
    [1, 2, 3, 7, 8, 9, 10, 15, 16, 63, 64, 65, 71, 72, 0, -1, -3, -7, -8, -9, 2147483647, -2147483648].map normH
    = [8, 8, 8, 8, 8, 8, 8, 8, 16, 56, 64, 64, 64, 72, 0, -8, -8, -8, -8, -16, 2147483640, -2147483648] := by decide

/-! Bus transactions. -/

/-- 40_host_bus.md R61: RD CMD never reveals PEND. -/
theorem test_rdCmd : after (exec .rdCmd { pending 0x5 with rdata := 7 }) State.rdata = some 0 := by decide +kernel

/-- 40_host_bus.md R59, the example. -/
theorem test_wrCmd : after (exec (.wrCmd 0x5) State.reset) (fun t => (t.status.word, t.pend)) = some (0x01, 0x5) := by
  decide +kernel

/-- 95_test_vectors.md B11: a second command word is dropped. -/
theorem test_wrCmd_busy : after (exec (.wrCmd 0x3) (pending 0x5)) (fun t => (t.status.word, t.pend))
    = some (0x81, 0x5) := by decide +kernel

/-- 40_host_bus.md R63, the example: HADJ and OK. -/
theorem test_rdStatus :
    after (exec .rdStatus { State.reset with status := ⟨false, true, false, false, false, true, false, false⟩ })
      State.rdata = some 0x22 := by decide +kernel

/-- 95_test_vectors.md B8: 0x7F clears nothing, 0x80 clears BUSYERR alone. -/
theorem test_wrStatus :
    let s := { State.reset with status := ⟨false, true, false, false, false, false, false, true⟩ }
    after (exec (.wrStatus 0x7F) s) (fun t => t.status.word) = some 0x82
      ∧ after (exec (.wrStatus 0x80) s) (fun t => t.status.word) = some 0x02 := by decide +kernel

/-- 40_host_bus.md R62: a clear attempted while busy sets BUSYERR. -/
theorem test_wrStatus_busy : after (exec (.wrStatus 0x80) (pending 0x5)) (fun t => t.status.word) = some 0x81 := by
  decide +kernel

/-- 40_host_bus.md R65, the example. -/
theorem test_rdArgA : after (exec .rdArgA { State.reset with argA := 0x80 }) State.rdata = some 0x80 := by
  decide +kernel

/-- 40_host_bus.md R64, the example: -1. -/
theorem test_wrArgA : after (exec (.wrArgA (BitVec.ofInt 32 (-1))) State.reset) State.argA = some 0xFFFFFFFF := by
  decide +kernel

/-- 95_test_vectors.md B9: dropped before completion. -/
theorem test_wrArgA_busy : after (exec (.wrArgA 7) (pending 0x5)) (fun t => (t.argA, t.status.word))
    = some (0, 0x81) := by decide +kernel

/-- 40_host_bus.md R67, R66, the examples. -/
theorem test_rdArgB : after (exec .rdArgB State.reset) State.rdata = some 0 := by decide +kernel
theorem test_wrArgB : after (exec (.wrArgB 10) State.reset) (fun t => (t.argA, t.argB)) = some (0, 0xA) := by
  decide +kernel

/-- 95_test_vectors.md B1 and B7: GRID_DIM. -/
theorem test_rdGridDim : after (exec .rdGridDim State.reset) State.rdata = some 0x4080 := by decide +kernel
theorem test_wrGridDim : after (exec (.wrGridDim 0x0808) State.reset) (fun t => (t.gridW, t.gridH, t.status.word))
    = some (128, 64, 0) := by decide +kernel

/-- 40_host_bus.md R70: a signed ADJ_H of -8. -/
theorem test_rdAdjH : after (exec .rdAdjH { State.reset with adjH := BitVec.ofInt 32 (-8) }) State.rdata
    = some 0xFFFFFFF8 := by decide +kernel
theorem test_wrAdjH : after (exec (.wrAdjH 5) State.reset) State.adjH = some 0 := by decide +kernel

/-- 95_test_vectors.md B4. -/
theorem test_wrBufLen : after (exec (.wrBufLen 0x12345) State.reset) State.bufLen = some 0x2345 := by decide +kernel
theorem test_rdBufLen : after (exec .rdBufLen { State.reset with bufLen := 0x2345 }) State.rdata = some 0x2345 := by
  decide +kernel

/-- 40_host_bus.md R74, R77. -/
theorem test_wrBufPtr : after (exec (.wrBufPtr 0x10003) State.reset) State.bufPtr = some 3 := by decide +kernel
theorem test_rdBufPtr : after (exec .rdBufPtr { State.reset with bufPtr := 1025 }) (fun t => (t.rdata, t.bufPtr))
    = some (1025, 1025) := by decide +kernel

/-- 95_test_vectors.md B3: the last byte; the data's low 8 bits. -/
theorem test_wrBufData : after (exec (.wrBufData 0x1AB) { State.reset with bufPtr := 1023 }) (fun t =>
    (t.buf, t.bufPtr, t.bufLen)) = some ([(1023, 0xAB)], 1024, 0) := by decide +kernel

/-- 95_test_vectors.md B2: the pointer wraps, nothing is stored. -/
theorem test_wrBufData_wrap : after (exec (.wrBufData 7) { State.reset with bufPtr := 65535 }) (fun t =>
    (t.buf, t.bufPtr)) = some ([], 0) := by decide +kernel

/-- 95_test_vectors.md B12 and B3: a stored byte, and 0 past the buffer. -/
theorem test_rdBufData : after (exec .rdBufData { State.reset with buf := [(0, 0x11), (1, 0x22)], bufPtr := 1 })
    (fun t => (t.rdata, t.bufPtr)) = some (0x22, 2) := by decide +kernel
theorem test_rdBufData_past : after (exec .rdBufData { State.reset with bufPtr := 1024 })
    (fun t => (t.rdata, t.bufPtr)) = some (0, 1025) := by decide +kernel

/-- 95_test_vectors.md B5. -/
theorem test_wrPixSel : after (exec (.wrPixSel 0xFFFF0702) State.reset) (fun t => (t.pixSel, t.selRow, t.selCol))
    = some (0x0702, 7, 2) := by decide +kernel
theorem test_rdPixSel : after (exec .rdPixSel { State.reset with pixSel := 0x0702 }) State.rdata = some 0x0702 := by
  decide +kernel

/-- 95_test_vectors.md B6: an on pixel, and row 200. -/
theorem test_rdPixVal : after (exec .rdPixVal { State.reset with grid := gridOf [(0, 0)] }) State.rdata = some 1 := by
  decide +kernel
theorem test_rdPixVal_outside : after (exec .rdPixVal { State.reset with grid := gridOf [(0, 0)], pixSel := 0xC800 })
    State.rdata = some 0 := by decide +kernel
theorem test_wrPixVal : after (exec (.wrPixVal 1) State.reset) (fun t => (pixels t [(0, 0)], t.status.word))
    = some ([false], 0) := by decide +kernel

/-! Steps. -/

/-- 95_test_vectors.md B9 and B10: the two orders of one host program, by T_CMD 1 and 0. -/
theorem test_step_orders :
    let line : HostLine := .wr .argA 7
    after (step { withLine (pending 0x5) line with delay := 1 }) (fun t => (t.argA, t.status.word)) = some (0, 0x81)
      ∧ after (step { withLine (pending 0x5) line with delay := 0 }) (fun t => (t.argA, t.status.word))
        = some (0, 0x02) := by decide +kernel

/-- 60_exceptions.md R106: reset discards a pending command. -/
theorem test_step_reset : after (step { pending 0x5 with resets := [true], argA := 3 }) (fun t =>
    (t.argA, t.status.word, t.pend, t.run, pixels t [(0, 0)])) = some (0, 0, 0, 1, [false]) := by decide +kernel

/-- 30_encoding.md R55: RD binds its variable. -/
theorem test_step_read_binds : after (step (withLine { State.reset with argB := 10 } (.rd .argB (some 4)))) State.vars
    = some [(4, 10)] := by decide +kernel

/-- 30_encoding.md R55: BIT1 of WAIT loops back while BUSY is read. -/
theorem test_step_bit1 :
    after (step { State.reset with prog := waitLines 0 1, pos := 2, vars := [(1, 0x81)] }) State.pos = some 0
      ∧ after (step { State.reset with prog := waitLines 0 1, pos := 2, vars := [(1, 0x82)] }) State.pos = some 3 := by
  decide +kernel

/-- 30_encoding.md R55: a failed CHECK ends the host's run. -/
theorem test_step_check_fails :
    after (step { withLine State.reset (.check 1 0x09) with vars := [(1, 0x0A)] }) State.pos = none := by
  decide +kernel

/-- A placed command word and a placed selector are the next instruction run. -/
theorem test_placed_words :
    after (step (State.reset.withFetchWord 32 0x5)) (fun t => pixels t [(63, 127)]) = some [true]
      ∧ after (step (State.reset.withFetchWord 16 0x010)) State.rdata = some 0x4080
      ∧ after (step ((pending 0x5).withFetchWord 16 0x108)) (fun t => t.status.word) = some 0x81
      ∧ after (step ((pending 0x5).withFetchWord 32 0x4)) (fun t => pixels t [(0, 0), (0, 1)])
        = some [true, false] := by decide +kernel

/-! Host procedures. -/

/-- 95_test_vectors.md P1: the encodings beside its lines. -/
theorem test_macro_toggle : toggleLines 7 1 3 0 =
    [.bus 32 0x108 0x7 none, .bus 32 0x10C 0x1 none, .bus 32 0x100 0x4 none,
      .label 3, .bus 32 0x004 0 (some 0), .bit1 0 0 3] := by decide

/-- 95_test_vectors.md P2: the load of its three bytes, and its pixel reads. -/
theorem test_macro_load : loadBufLines [0x01, 0x02, 0x80] =
    [.bus 32 0x11C 0 none, .bus 32 0x120 0x01 none, .bus 32 0x120 0x02 none, .bus 32 0x120 0x80 none,
      .bus 32 0x118 3 none]
    ∧ readPixLines 7 1 5 = [.bus 32 0x124 0x0701 none, .bus 32 0x028 0 (some 5)] := by decide

/-- 47_host_text_formats.md R101: a redraw reads the cells row by row. -/
theorem test_macro_redraw : redrawLines 2 1 5 = readPixLines 0 0 5 ++ readPixLines 0 1 6 := by decide

/-- 47_host_text_formats.md R98: no token, the message and no block access. -/
theorem test_import_no_token : importLoadLines (scanTokens ['0', 'X', '1', ' ', '0', 'x']) = []
    ∧ importLines ['0', 'X', '1', ' ', '0', 'x'] 8 8 0 0 = [.tell .malformedInput]
    ∧ importReport (scanTokens ['0', 'X', '1', ' ', '0', 'x']) 0x02 0 = .malformed := by decide

/-- 47_host_text_formats.md R99: of 70000 tokens the first 1024 are written, and BUF_LEN is capped at 65535. -/
theorem test_import_load_caps : (importLoadLines (List.replicate 70000 0x55)).length = 1026
    ∧ (importLoadLines (List.replicate 70000 0x55)).getLast? = some (.wr .bufLen 65535) := by
  have h : importLoadLines (List.replicate 70000 0x55) =
      HostLine.wr .bufPtr 0 :: (List.replicate 1024 (HostLine.wr .bufData 0x55)) ++ [HostLine.wr .bufLen 65535] := by
    unfold importLoadLines
    rw [if_neg (by simp), List.take_replicate, List.map_replicate, List.length_replicate]
    rfl
  have hlen : (List.replicate 1024 (HostLine.wr .bufData 0x55)).length = 1024 := List.length_replicate
  rw [h]
  generalize List.replicate 1024 (HostLine.wr .bufData 0x55) = lines at hlen
  exact ⟨by simp [hlen], List.getLast?_concat⟩

/-- 47_host_text_formats.md R100: load, DECODE, its report, and the three ways on; every label a jump names is there. -/
theorem test_import_lines : importLines ['0', 'x', '7'] 1 8 0 0 =
      importLoadLines [0x07] ++ decodeLines 1 8 0 0 ++ [.rd .adjH (some 1), .report 0 1,
        .bit1 0 1 1, .bit1 0 3 2, .goto 1, .label 2, .ask 3, .goto 1, .label 3]
        ++ decodeForceLines 1 8 4 0 ++ [.rd .adjH (some 1), .report 0 1, .label 1]
    ∧ programWellFormed (importLines ['0', 'x', '7'] 1 8 0 0) = true := by decide

/-- 47_host_text_formats.md R100, 95_test_vectors.md DC13: the refusal 0x28 shows the height, and so does a VALERR with
HADJ, 0x24. -/
theorem test_import_reports : importReport [0x01] 0x28 8 = .askUser [.adjustedHeight 8, .lengthMismatch]
    ∧ importReport [0x01] 0x24 72 = .validationError [.adjustedHeight 72, .validationError]
    ∧ importReport [0x01] 0x1A 8 = .done [.lengthMismatch, .shortBuffer]
    ∧ importReport [0x01] 0x02 8 = .done [] := by decide

/-- 47_host_text_formats.md R95: the lines of an export; R101: a RESIZE and its report. -/
theorem test_export_lines : exportLines 3 0 =
      [.bus 32 0x100 0x1 none, .label 3, .bus 32 0x004 0 (some 0), .bit1 0 0 3, .bus 32 0x018 0 (some 1),
        .bus 32 0x11C 0 none, .readBytes 1 2, .output 1 2]
    ∧ resolutionLines 2 10 3 0 = resizeLines 2 10 3 0 ++ [.bus 32 0x014 0 (some 1), .report 0 1] := by decide

/-- 47_host_text_formats.md R95: a reading line reads at BUF_PTR, once a step, as often as its count says. -/
theorem test_step_readBytes :
    let s := { withLine { State.reset with buf := [(0, 0x09), (1, 0x80)] } (.readBytes 1 2) with vars := [(1, 2)] }
    after (step s) (fun t => (t.vars, t.bufPtr, t.pos, t.session.loop)) = some ([(1, 2), (2, 0x09)], 1, 0, 1)
      ∧ after (step { s with session := { s.session with loop := 2 } }) (fun t => (t.bufPtr, t.pos, t.session.loop))
        = some (0, 1, 0) := by decide +kernel

/-- 95_test_vectors.md P1: the export text of its two bytes. -/
theorem test_step_output :
    after (step { withLine State.reset (.output 1 2) with vars := [(1, 2), (2, 0x09), (3, 0x80)] })
      (fun t => t.session.exports)
    = some [exportHeader ++ ['0', 'x', '0', '9', ',', ' ', '0', 'x', '8', '0'] ++ exportFooter] := by decide +kernel

/-- 47_host_text_formats.md R100: a report shows the notices, and meets the duty where they are the block's. -/
theorem test_step_report :
    after (step { withLine refusedDecode (.report 1 2) with vars := [(1, 0x28), (2, 8)] })
      (fun t => (t.session.shown, t.session.reported)) = some ([.adjustedHeight 8, .lengthMismatch], true)
    ∧ after (step { withLine refusedDecode (.report 1 2) with vars := [(1, 0x02), (2, 8)] })
      (fun t => (t.session.shown, t.session.reported)) = some ([], false) := by decide +kernel

/-- 47_host_text_formats.md R100: proceed goes to the label and is to the forced decode at hand, cancel goes on. -/
theorem test_step_ask :
    let s := { refusedDecode with prog := [.ask 7, .goto 8, .label 7], argA := 1, argB := 10, bufLen := 2 }
    after (step { s with session := { s.session with answers := [true] } })
      (fun t => (t.pos, t.session.consent)) = some (2, some ⟨1, 10, 2⟩)
    ∧ after (step { s with session := { s.session with answers := [false] } })
      (fun t => (t.pos, t.session.consent, t.session.asked)) = some (1, none, 1) := by decide +kernel

/-- 60_exceptions.md R115: a bound host does not write DECODE.F after a refusal without the user's proceed to it, nor any
command while a notice is owed, nor anything before it has polled; with the proceed and the report it writes DECODE.F. -/
theorem test_step_duties :
    let s := boundLine refusedDecode (.wr .cmd 0x12)
    let proceed : Session := { s.session with consent := some ⟨0, 0, 0⟩ }
    step { s with session := { s.session with reported := true } } = .refused .hostDutyBroken
    ∧ step { s with session := proceed } = .refused .hostDutyBroken
    ∧ step { s with session := { proceed with reported := true }, argA := 2 } = .refused .hostDutyBroken
    ∧ step (boundLine (pending 0x5) (.wr .argA 7)) = .refused .hostDutyBroken
    ∧ after (step { s with session := { proceed with reported := true } })
      (fun t => (t.pend, t.session.awaiting, t.session.consent)) = some (0x12, true, none) := by
  refine ⟨rfl, rfl, rfl, rfl, by decide +kernel⟩

/-- 60_exceptions.md R115: a later DECODE that ends in VALERR, and a new load, leave a refusal seen to be asked about. -/
theorem test_refusal_stays :
    let seen : Session := { refusedDecode.session with awaiting := true, consent := some ⟨0, 0, 0⟩ }
    let failed := { refusedDecode with status := ⟨false, false, true, false, false, false, false, false⟩, session := seen }
    after (step (boundLine failed (.rd .status none))) (fun t => (t.session.refused, t.session.awaiting))
      = some (true, false)
    ∧ after (step (withLine failed (.wr .bufLen 3))) (fun t => (t.session.refused, t.session.consent))
      = some (true, none) := by decide +kernel

/-- 60_exceptions.md R115: a bound host does not end with a notice owed. -/
theorem test_step_end_owing :
    step { refusedDecode with session := { refusedDecode.session with bound := true } } = .refused .hostDutyBroken := by
  rfl

/-- 47_host_text_formats.md R97: tokens inside longer words, and a `0x` right after a one-digit token. -/
theorem test_scan_corners : scanTokens ['a', '0', 'x', '1'] = [0x01]
    ∧ scanTokens ['0', '0', 'x', '0', 'x', '1'] = [0x00]
    ∧ scanTokens ['0', 'x', 'x', '0', 'x', 'f', 'F', '0'] = [0xFF] := by decide

/-- 95_test_vectors.md HT1: thirteen bytes, the line break and the commas. -/
theorem test_export_HT1 :
    exportText [0, 1, 2, 3, 4, 5, 6, 7, 8, 9, 10, 11, 12] = exportHeader
      ++ ['0', 'x', '0', '0', ',', ' ', '0', 'x', '0', '1', ',', ' ', '0', 'x', '0', '2', ',', ' ',
          '0', 'x', '0', '3', ',', ' ', '0', 'x', '0', '4', ',', ' ', '0', 'x', '0', '5', ',', ' ',
          '0', 'x', '0', '6', ',', ' ', '0', 'x', '0', '7', ',', ' ', '0', 'x', '0', '8', ',', ' ',
          '0', 'x', '0', '9', ',', ' ', '0', 'x', '0', 'a', ',', ' ', '0', 'x', '0', 'b', ',', '\n',
          '0', 'x', '0', 'c']
      ++ exportFooter := by decide +kernel

/-- 70_reset_and_hazards.md R123: the observation, registers in the order of the map. -/
theorem test_observe :
    let o := State.observe { onGrid 2 8 [(1, 1)] with status := State.reset.status, argA := 3, bufLen := 1, buf := [(0, 9)] }
    o.registers = [0, 0, 3, 0, 0x0802, 0, 1, 0, 9, 0, 0]
      ∧ (o.width, o.height, o.pixels.map (fun row => row.count true), o.bytes)
        = (2, 8, [0, 1, 0, 0, 0, 0, 0, 0], [9]) := by decide +kernel

/-! Witnesses: for each obligation with hypotheses, states and operands that meet them, at the ends of each range. -/

/-- An all-off state of legal dimensions, BUSY with bits 6:1 clear or idle as after reset, meets the invariant. -/
theorem inv_of_all_off (s : State) (hg : s.grid = State.reset.grid) (hw : 1 ≤ s.gridW ∧ s.gridW ≤ 128)
    (hh : s.gridH % 8 = 0 ∧ 8 ≤ s.gridH ∧ s.gridH ≤ 64) (hb : Mem.wf s.buf = true) (ha : s.adjH = 0)
    (hs : s.status.noResult = true) (hv : s.vars = [])
    (hp : s.status.busy = true → s.session.awaiting = true) : s.Inv where
  width := hw
  height := hh
  outside := fun r c _ => (State.pix_congr State.reset s hg r c).trans (State.pix_reset r c)
  bufWf := hb
  adjusted := by rw [ha]; rfl
  pending := fun _ => hs
  idle := fun _ => .inl hs
  vars := by rw [hv]; rfl
  awaits := hp

/-- The largest grid, a command pending. -/
theorem witness_inv_largest (w : Word) : (pending w).Inv :=
  inv_of_all_off _ rfl (show 1 ≤ 128 ∧ 128 ≤ 128 by decide) (show 64 % 8 = 0 ∧ 8 ≤ 64 ∧ 64 ≤ 64 by decide)
    rfl rfl rfl rfl (fun _ => rfl)

/-- The smallest grid, a command pending. -/
def smallest (w : Word) : State := { pending w with gridW := 1, gridH := 8 }

theorem witness_inv_smallest (w : Word) : (smallest w).Inv :=
  inv_of_all_off _ rfl (show 1 ≤ 1 ∧ 1 ≤ 128 by decide) (show 8 % 8 = 0 ∧ 8 ≤ 8 ∧ 8 ≤ 64 by decide) rfl rfl rfl rfl (fun _ => rfl)

theorem witness_inv_reset : State.reset.Inv :=
  inv_of_all_off _ rfl (by decide) (by decide) rfl rfl rfl rfl (fun h => nomatch h)

theorem witness_DecodeAndEncodeAgree : (Instr.wrPixVal 0xFFFFFFFF).wellFormed = true
    ∧ decode (.cmd 0x12) = .ok (.decode true) ∧ decode (.bus 0x128 7) = .ok (.wrPixVal 7)
    ∧ decode (.bus 0x028 7) = .ok .rdPixVal := ⟨rfl, rfl, rfl, rfl⟩

theorem witness_AdmittedSelectorsAreExactly22 :
    let s := withLine State.reset (.bus 32 0x02C 0 none)
    s.hostMoves = true ∧ s.prog[s.pos]? = some (.bus 32 0x02C 0 none) ∧ ∀ i, decodeBus 0x02C 0 ≠ .ok i :=
  ⟨rfl, rfl, fun _ h => by cases h⟩

/-- A bound read in the busy window; a write while idle of a host that is not bound, and of one that is; the last byte of
a reading line and its end. -/
theorem witness_StepRunsDecodedTransaction :
    (let s := withLine (pending 0x5) (.bus 32 0x004 0 (some 1))
     s.hostMoves = true ∧ s.session.bound = false
     ∧ s.prog[s.pos]? = some (.bus 32 0x004 0 (some 1)) ∧ decodeBus 0x004 0 = .ok .rdStatus)
    ∧ (let s := boundLine State.reset (.bus 32 0x108 9 none)
       s.hostMoves = true ∧ s.session.bound = true ∧ s.meetsDuties = true
       ∧ s.prog[s.pos]? = some (.bus 32 0x108 9 none) ∧ decodeBus 0x108 9 = .ok (.wrArgA 9))
    ∧ (let s := { withLine State.reset (.readBytes 1 2) with vars := [(1, 3)] }
       s.hostMoves = true ∧ s.session.bound = false ∧ s.prog[s.pos]? = some (.readBytes 1 2)
       ∧ assocGet 1 s.vars = some 3 ∧ 2 < (3 : Word).toNat ∧ (3 : Word).toNat ≤ 3) :=
  ⟨⟨rfl, rfl, rfl, rfl⟩, ⟨rfl, rfl, rfl, rfl, rfl⟩, ⟨rfl, rfl, rfl, rfl, by decide, by decide⟩⟩

theorem witness_StepRunsPendingCommand : (pending 0x12).blockCompletes = true
    ∧ decodeCmd (pending 0x12).pend = .ok (.decode true) := ⟨rfl, rfl⟩

theorem witness_PlacedWordIsRunNext : decodeCmd 0x5 = .ok .invert ∧ decodeBus 0x128 0 = .ok (.wrPixVal 0)
    ∧ decodeBus 0x000 0 = .ok .rdCmd := ⟨rfl, rfl, rfl⟩

/-- Words next to the legal ones: OP 0, OP 6, F with ENCODE, the lowest reserved bit. -/
theorem witness_IllegalWordRaisesIllcmdOnly :
    (∀ w ∈ ([0x0, 0x6, 0x11, 0x20] : List Word), ∀ i, decodeCmd w ≠ .ok i) ∧ State.reset.status.busy = false
    ∧ (pending 0x6).blockCompletes = true ∧ (pending 0x6).pend = 0x6 ∧ (pending 0x6).status.noResult = true := by
  refine ⟨?_, rfl, rfl, rfl, rfl⟩
  intro w hw i
  simp only [List.mem_cons, List.not_mem_nil, or_false] at hw
  rcases hw with rfl | rfl | rfl | rfl <;> (intro h; cases h)

/-- The four clauses: a half-word access, offset 2, offset 0x2C (the first unmapped) and 0xFC, offset 0x28 (the last mapped). -/
theorem witness_InadmissibleAccessIsRefused :
    (let s := withLine State.reset (.bus 16 0x000 0 none)
     s.hostMoves = true ∧ s.prog[s.pos]? = some (.bus 16 0x000 0 none))
    ∧ (let s := withLine State.reset (.bus 32 0x002 0 none)
       s.hostMoves = true ∧ s.prog[s.pos]? = some (.bus 32 0x002 0 none) ∧ selOffset 0x002 % 4 ≠ 0)
    ∧ (∀ sel ∈ ([0x02C, 0x1FC] : List (BitVec 9)), selOffset sel % 4 = 0 ∧ ∀ r ∈ BusReg.all, selOffset sel ≠ r.offset)
    ∧ (∃ r ∈ BusReg.all, selOffset 0x028 = r.offset)
    ∧ (withLine State.reset (.bus 32 0x028 0 none)).session.bound = false := by
  refine ⟨⟨rfl, rfl⟩, ⟨rfl, rfl, by decide⟩, by decide, by decide, rfl⟩

/-- One line of each kind at its clause's hypotheses. -/
theorem witness_HostInternalLinesTouchOnlyTheHost :
    (withLine State.reset (.label 2)).hostMoves = true
    ∧ ([.goto 2, .label 2] : List HostLine).findIdx? (fun x => x.declares == some 2) = some 1
    ∧ (let s := { withLine State.reset (.bit1 1 31 2) with vars := [(1, 0x7FFFFFFF), (2, 0x80000000)] }
       s.hostMoves = true ∧ s.prog[s.pos]? = some (.bit1 1 31 2)
       ∧ assocGet 1 s.vars = some 0x7FFFFFFF ∧ (0x7FFFFFFF : Word).getLsbD 31 = false
       ∧ assocGet 2 s.vars = some 0x80000000 ∧ (0x80000000 : Word).getLsbD 31 = true)
    ∧ (let s := { withLine (pending 0x5) (.check 1 0x02) with vars := [(1, 0x02)] }
       s.hostMoves = true ∧ s.prog[s.pos]? = some (.check 1 0x02) ∧ assocGet 1 s.vars = some 0x02)
    ∧ (let s := { withLine State.reset (.check 1 0x02) with vars := [(1, 0x82)] }
       s.hostMoves = true ∧ assocGet 1 s.vars = some 0x82 ∧ (0x82 : Word) ≠ 0x02)
    ∧ (withLine State.reset (.tell .malformedInput)).hostMoves = true
    ∧ (let s := { withLine refusedDecode (.report 1 2) with vars := [(1, 0x28), (2, 8)] }
       s.hostMoves = true ∧ assocGet 1 s.vars = some 0x28 ∧ assocGet 2 s.vars = some 8
       ∧ s.session.awaiting = false ∧ noticesOf 0x28 8 = noticesOf s.status.word s.adjH)
    ∧ (let s := { refusedDecode with prog := [.ask 7, .label 7] }
       s.hostMoves = true ∧ { s.session with answers := [true] }.answer = true
       ∧ { s.session with answers := [false] }.answer = false
       ∧ s.prog.findIdx? (fun x => x.declares == some 7) = some 1)
    ∧ (let s := { withLine State.reset (.output 1 2) with vars := [(1, 1), (2, 0x109)] }
       s.hostMoves = true ∧ assocGet 1 s.vars = some 1 ∧ ([0x09] : List Byte).length = (1 : Word).toNat
       ∧ ∀ k (h : k < ([0x09] : List Byte).length), ∃ w : Word,
         assocGet (2 + k) s.vars = some w ∧ ([0x09] : List Byte)[k] = w.setWidth 8) := by
  refine ⟨rfl, by decide, ⟨rfl, rfl, rfl, by decide, rfl, by decide⟩, ⟨rfl, rfl, rfl⟩, ⟨rfl, rfl, by decide⟩, rfl,
    ⟨rfl, rfl, rfl, rfl, by decide⟩, ⟨rfl, rfl, rfl, by decide⟩, ⟨rfl, rfl, by decide, ?_⟩⟩
  intro k h
  have hk : k = 0 := by simpa using h
  subst hk
  exact ⟨0x109, rfl, rfl⟩

/-- A host that is not bound, and a bound one that owes nothing. -/
theorem witness_IdleBlockKeepsItsState : State.reset.resetAsserted = false ∧ State.reset.runEnded = true
    ∧ State.reset.session.bound = false
    ∧ { State.reset with session := { State.reset.session with bound := true } }.meetsDuties = true :=
  ⟨rfl, rfl, rfl, rfl⟩

theorem witness_ResetEventTakesPriority : State.resetAsserted { pending 0x5 with resets := [true] } = true := rfl

theorem witness_EveryStepKeepsTheInvariant : State.reset.Inv ∧ (pending 0x5).Inv
    ∧ (∃ t, step State.reset = .next t) ∧ ∃ t, step (pending 0x5) = .next t :=
  ⟨witness_inv_reset, witness_inv_largest _, ⟨_, rfl⟩, ⟨_, rfl⟩⟩

theorem witness_BusyWritesOnlySetBusyerr : (pending 0x5).status.busy = true
    ∧ isBusWrite (.wrCmd 0) = true ∧ isBusWrite (.wrPixVal 1) = true := ⟨rfl, rfl, rfl⟩

/-- The two sides of every write's statement (WrCmdIssuesTheWord, WrStatusClearsBusyerrByBit7, WrArgStoresAllBits,
WritesToReadOnlyRegistersHaveNoEffect, WrHalfRegistersTakeLow16Bits, WrBufDataStoresOneByte) and of RdBufDataFetchesOneByte. -/
theorem witness_idle_and_busy : State.reset.status.busy = false ∧ (pending 0x5).status.busy = true := ⟨rfl, rfl⟩

theorem witness_WritesToReadOnlyRegistersHaveNoEffect :
    Instr.wrPixVal 1 ∈ [Instr.wrGridDim 1, Instr.wrAdjH 1, Instr.wrPixVal 1] ∧ State.reset.status.busy = false :=
  ⟨by decide, rfl⟩

/-- The pointer at 1023 and at 1024, where the clauses of the two BUF_DATA statements meet, and at 65535. -/
theorem witness_bufPtr_bounds : (1023 : Half).toNat < 1024 ∧ 1024 ≤ (1024 : Half).toNat
    ∧ ((65535 : Half).toNat + 1) % 65536 = 0 := by decide

theorem witness_RdDimensionsAndBufferRegisters : State.reset.Inv ∧ State.reset.status.busy = false
    ∧ State.Inv { smallest 0 with status := State.reset.status } :=
  ⟨witness_inv_reset, rfl, inv_of_all_off _ rfl (by decide) (by decide) rfl rfl rfl rfl (fun _ => rfl)⟩

/-- The last pixel inside, the first row outside, the first column outside. -/
theorem witness_RdPixValReadsThePixel :
    (let s := { State.reset with pixSel := 0x3F7F }
     s.status.busy = false ∧ s.selRow < s.gridH ∧ s.selCol < s.gridW)
    ∧ (let s := { State.reset with pixSel := 0x4000 }
       s.status.busy = false ∧ s.gridH ≤ s.selRow)
    ∧ (let s := { State.reset with pixSel := 0x0080 }
       s.status.busy = false ∧ s.gridW ≤ s.selCol) := by
  refine ⟨⟨rfl, by decide, by decide⟩, ⟨rfl, by decide⟩, ⟨rfl, by decide⟩⟩

theorem witness_BusyReadsAreFreeDraws : (pending 0x5).status.busy = true ∧ isGuardedRead .rdPixVal = true := ⟨rfl, rfl⟩

/-- A plain read, RD BUF_DATA while idle, and RD BUF_DATA while busy. -/
theorem witness_ReadsChangeNothingButTheAnswer : isBusRead .rdCmd = true ∧ isBusRead .rdBufData = true
    ∧ (∃ t, exec .rdCmd State.reset = .next t) ∧ (∃ t, exec .rdBufData State.reset = .next t)
    ∧ (∃ t, exec .rdBufData (pending 0x5) = .next t) := ⟨rfl, rfl, ⟨_, rfl⟩, ⟨_, rfl⟩, ⟨_, rfl⟩⟩

theorem witness_WritesFrame : isBusWrite (.wrBufData 5) = true ∧ (∃ t, exec (.wrBufData 5) State.reset = .next t)
    ∧ (∀ d, Instr.wrBufData 5 ≠ .wrCmd d) := ⟨rfl, ⟨_, rfl⟩, fun _ h => by cases h⟩

/-- Each command; at the reset dimensions no page and column has index 1024. -/
theorem witness_CommandsFrame : isCommand .encode = true ∧ isCommand .resize = true ∧ isCommand .toggle = true
    ∧ (∃ t, exec .encode (pending 0x1) = .next t) ∧ (∃ t, exec .resize (pending 0x3) = .next t)
    ∧ (∃ t, exec .toggle (pending 0x4) = .next t)
    ∧ (∀ p c, p < (pending 0x1).gridH / 8 → c < (pending 0x1).gridW → 1024 ≠ packedIndex (pending 0x1).gridW p c) :=
  ⟨rfl, rfl, rfl, ⟨_, rfl⟩, exec_answers_next _ _, exec_answers_next _ _, fun p c hp hc =>
    have h := packedIndex_lt 128 64 p c hp hc
    Nat.ne_of_gt h⟩

theorem witness_BusyWindowKeepsCommandInputs : (pending 0x5).status.busy = true ∧ isBusRead .rdBufData = true
    ∧ isBusWrite (.wrBufPtr 1) = true ∧ (∃ t, exec .rdBufData (pending 0x5) = .next t)
    ∧ (∃ t, exec (.wrBufPtr 1) (pending 0x5) = .next t) := ⟨rfl, rfl, rfl, ⟨_, rfl⟩, ⟨_, rfl⟩⟩

/-- ENCODE at both ends of the dimensions: the last page, column and bit, and the first byte past the length. -/
theorem witness_EncodePacksTheGrid : (pending 0x1).Inv ∧ (smallest 0x1).Inv
    ∧ 7 < (pending 0x1).gridH / 8 ∧ 127 < (pending 0x1).gridW ∧ (pending 0x1).gridH / 8 * (pending 0x1).gridW ≤ 1024
    ∧ (smallest 0x1).gridH / 8 * (smallest 0x1).gridW ≤ 1 :=
  ⟨witness_inv_largest _, witness_inv_smallest _, by decide, by decide, by decide, by decide⟩

theorem witness_EncodedLengthLaw : (pending 0x1).Inv ∧ ∃ t, exec .encode (pending 0x1) = .next t :=
  ⟨witness_inv_largest _, ⟨_, rfl⟩⟩

theorem witness_PackedIndicesFitTheBuffer : (pending 0x1).Inv ∧ 7 < (pending 0x1).gridH / 8
    ∧ 127 < (pending 0x1).gridW ∧ ∃ u, (pending 0x3).checkDims 128 71 = (u, some (128, 64)) :=
  ⟨witness_inv_largest _, by decide, by decide, ⟨_, rfl⟩⟩

/-- The three ends of a DECODE: a width of 129; a mismatch with F = 0; an accepted decode. -/
theorem witness_DecodeUnpacksTheBuffer : (pending 0x2).status.noResult = true
    ∧ validDims 129 (normH 8) = false
    ∧ (validDims 128 (normH 64) = true ∧ (0 : Nat) ≠ packedLen 128 64)
    ∧ (validDims 1 (normH 3) = true ∧ (1 : Nat) = packedLen 1 8) := ⟨rfl, by decide, by decide, by decide⟩

/-- The two ends of a RESIZE: width 0, and the largest dimensions. -/
theorem witness_ResizeKeepsTheOverlap : (pending 0x3).Inv ∧ (pending 0x3).status.noResult = true
    ∧ validDims 0 (normH 8) = false ∧ validDims 128 (normH 71) = true :=
  ⟨witness_inv_largest _, rfl, by decide, by decide⟩

/-- The last pixel inside, and the four ways to be outside. -/
theorem witness_ToggleFlipsOnePixel : (pending 0x4).Inv
    ∧ ((63 : Int) < (pending 0x4).gridH ∧ (127 : Int) < (pending 0x4).gridW)
    ∧ (-1 : Int) < 0 ∧ ((pending 0x4).gridH : Int) ≤ 64 ∧ ((pending 0x4).gridW : Int) ≤ 128 :=
  ⟨witness_inv_largest _, by decide, by decide, by decide, by decide⟩

theorem witness_InvertFlipsEveryPixel : (pending 0x5).Inv ∧ 63 < (pending 0x5).gridH ∧ 127 < (pending 0x5).gridW
    ∧ (smallest 0x5).Inv ∧ (smallest 0x5).gridH ≤ 8 ∧ (smallest 0x5).gridW ≤ 1 :=
  ⟨witness_inv_largest _, by decide, by decide, witness_inv_smallest _, by decide, by decide⟩

/-- Also the hypotheses of EncodeThenDecodeRestoresTheGrid. -/
theorem witness_InvertTwiceRestoresTheGrid : (pending 0x5).Inv ∧ (pending 0x5).status.noResult = true
    ∧ (pending 0x5).status.busyerr = false := ⟨witness_inv_largest _, rfl, rfl⟩

/-- A forced decode of an empty buffer completes with OK; indices 0 and 7 of an 8 by 8 grid are past its length. -/
theorem witness_DecodeThenEncodeReproducesTheBytes :
    let s := { pending 0x12 with argA := 8, argB := 8 }
    s.status.ok = false ∧ s.bufLen.toNat ≤ 0 ∧ ∃ t, exec (.decode true) s = .next t ∧ t.status.ok = true :=
  ⟨rfl, by decide, ⟨_, rfl, rfl⟩⟩

/-- A multiple of 8, a height of 1 and of 7, and the ends of 32 bits. -/
theorem witness_NormHRoundsDownAndClamps : (-8 : Int) % 8 = 0 ∧ (7 : Int) % 8 ≠ 0 ∧ (1 : Int) ≤ 7
    ∧ (-2 ^ 31 : Int) ≤ -2147483648 ∧ (2147483647 : Int) < 2 ^ 31 := by decide

/-- A word pending and completing, a STATUS write, an issue. -/
theorem witness_StatusResultLifecycle : State.reset.status.busy = false ∧ (pending 0x0).Inv
    ∧ (pending 0x0).blockCompletes = true ∧ (pending 0x0).status.busy = true
    ∧ ∃ t, exec (.wrStatus 0x80) (pending 0x0) = .next t :=
  ⟨rfl, witness_inv_largest _, rfl, rfl, ⟨_, rfl⟩⟩

/-- A RESIZE to height 72 aborts and changes ADJ_H. -/
theorem witness_AbortLeavesTheStateUnchanged :
    let s := { pending 0x3 with argA := 8, argB := 72 }
    s.Inv ∧ s.blockCompletes = true ∧ ∃ t, step s = .next t ∧ t.status.ok = false ∧ t.adjH ≠ s.adjH :=
  ⟨inv_of_all_off _ rfl (by decide) (by decide) rfl rfl rfl rfl (fun _ => rfl), rfl, ⟨_, rfl, rfl, by decide⟩⟩

/-- BUSYERR cleared by WR STATUS, and set by a write in the busy window. -/
theorem witness_BusyerrIsSticky :
    (let s := withLine { State.reset with status := ⟨false, true, false, false, false, false, false, true⟩ }
       (.bus 32 0x104 0x80 none)
     s.resetAsserted = false ∧ s.status.busyerr = true ∧ ∃ t, step s = .next t ∧ t.status.busyerr = false)
    ∧ (let s := withLine (pending 0x5) (.bus 32 0x108 0 none)
       s.resetAsserted = false ∧ s.status.busyerr = false ∧ ∃ t, step s = .next t ∧ t.status.busyerr = true) :=
  ⟨⟨rfl, rfl, ⟨_, rfl, rfl⟩⟩, ⟨rfl, rfl, ⟨_, rfl, rfl⟩⟩⟩

/-- A RESIZE that changes the dimensions, and an INVERT that changes a pixel. -/
theorem witness_OnlyGridCommandsChangeTheGrid :
    (let s := { pending 0x3 with argA := 8, argB := 8 }
     s.resetAsserted = false ∧ ∃ t, step s = .next t ∧ t.gridW ≠ s.gridW)
    ∧ (pending 0x5).resetAsserted = false ∧ after (step (pending 0x5)) (fun t => t.pix 0 0) = some true
    ∧ (pending 0x5).pix 0 0 = false :=
  ⟨⟨rfl, ⟨_, rfl, by decide⟩⟩, rfl, by decide +kernel, by decide +kernel⟩

/-- A write of each of the three registers, and a RESIZE that reports a height. -/
theorem witness_OnlyTheirOwnersChangeTheRegisters :
    (∃ t, step (withLine State.reset (.bus 32 0x108 7 none)) = .next t ∧ t.argA ≠ 0)
    ∧ (∃ t, step (withLine State.reset (.bus 32 0x10C 7 none)) = .next t ∧ t.argB ≠ 0)
    ∧ (∃ t, step (withLine State.reset (.bus 32 0x124 7 none)) = .next t ∧ t.pixSel ≠ 0)
    ∧ (∃ t, step { pending 0x3 with argA := 8, argB := 8 } = .next t ∧ t.adjH ≠ 0) :=
  ⟨⟨_, rfl, by decide⟩, ⟨_, rfl, by decide⟩, ⟨_, rfl, by decide⟩, ⟨_, rfl, by decide⟩⟩

/-- A write of BUF_DATA over a listed byte, an ENCODE over one, and a write of BUF_LEN with a data bit above 15:0. -/
theorem witness_OnlyEncodeAndThePortWriteTheBuffer :
    (let s := withLine { State.reset with buf := [(0, 0x11)] } (.bus 32 0x120 0x22 none)
     s.resetAsserted = false ∧ ∃ t, step s = .next t ∧ t.memRead 0 ≠ s.memRead 0 ∧ t.bufPtr ≠ s.bufPtr)
    ∧ (let s := { smallest 0x1 with buf := [(0, 0x11)] }
       s.resetAsserted = false ∧ s.memRead 0 = 0x11 ∧ after (step s) (fun t => t.memRead 0) = some 0x00)
    ∧ (let s := withLine State.reset (.bus 32 0x118 0x10007 none)
     s.resetAsserted = false ∧ s.bufLen = 0 ∧ after (step s) (fun t => t.bufLen) = some 0x0007) :=
  ⟨⟨rfl, ⟨_, rfl, by decide +kernel, by decide⟩⟩, ⟨rfl, by decide +kernel, by decide +kernel⟩, ⟨rfl, rfl, by decide⟩⟩

/-- A STATUS read in the busy window meets the wait rule; a write and a guarded read break it. -/
theorem witness_WaitRuleAvoidsTheHazard :
    (let s := withLine (pending 0x5) (.bus 32 0x004 0 none)
     s.hostMoves = true ∧ s.meetsWaitRule = true ∧ s.status.busyerr = false ∧ s.status.busy = true
     ∧ ∃ t, step s = .next t)
    ∧ (let s := withLine (pending 0x5) (.bus 32 0x108 7 none)
       s.hostMoves = true ∧ s.meetsWaitRule = false ∧ ∃ t, step s = .next t)
    ∧ (let s := withLine (pending 0x5) (.bus 32 0x028 0 none)
       s.hostMoves = true ∧ s.meetsWaitRule = false ∧ ∃ t, step s = .next t) :=
  ⟨⟨rfl, rfl, rfl, rfl, ⟨_, rfl⟩⟩, ⟨rfl, rfl, ⟨_, rfl⟩⟩, ⟨rfl, rfl, ⟨_, rfl⟩⟩⟩

/-- A pending command after one host step. -/
theorem witness_PendingCommandCompletes :
    let s := withLine (pending 0x5) (.bus 32 0x004 0 none)
    s.status.busy = true ∧ (∀ b ∈ s.resets, b = false) ∧ s.delay = 1
    ∧ ∃ t, Host.Core.run core (s.delay + 1) s = .next t :=
  ⟨rfl, by decide, rfl, ⟨_, rfl⟩⟩

/-- No byte, and 1025 of them: one past the storage. -/
theorem witness_LoadingTheBufferStoresTheBytes : State.reset.status.busy = false
    ∧ ([] : List Byte).length < 65536 ∧ (List.replicate 1025 (0xFF : Byte)).length < 65536
    ∧ 1023 < (List.replicate 1025 (0xFF : Byte)).length := by
  refine ⟨rfl, by decide, ?_, ?_⟩ <;> (rw [List.length_replicate]; decide)

theorem witness_ExportTextScansBackToItsBytes : ([0x00, 0xFF] : List Byte) ≠ [] := by decide

/-- A token; the three reports: an accepted decode with a notice, a width of 0, a mismatch; and a text without a token. -/
theorem witness_ImportReportFollowsDecode : ([0x01] : List Byte) ≠ []
    ∧ (let s := { pending 0x12 with argA := 1, argB := 10, bufLen := 1 }
     s.status.noResult = true ∧ ∃ t, exec (.decode true) s = .next t ∧ t.status.ok = true ∧ t.status.hadj = true)
    ∧ (let s := { pending 0x2 with argA := 0, argB := 8 }
       s.status.noResult = true ∧ ∃ t, exec (.decode false) s = .next t ∧ t.status.valerr = true)
    ∧ (let s := { pending 0x2 with argA := 1, argB := 8 }
       s.status.noResult = true
       ∧ ∃ t, exec (.decode false) s = .next t ∧ t.status.ok = false ∧ t.status.lenmm = true)
    ∧ scanTokens ['0', 'x', 'g'] = [] :=
  ⟨by decide, ⟨rfl, ⟨_, rfl, rfl, rfl⟩⟩, ⟨rfl, ⟨_, rfl, rfl⟩⟩, ⟨rfl, ⟨_, rfl, rfl, rfl⟩⟩, by decide⟩

/-- Steps of a bound host, a clause each: a STATUS read while busy; an idle step at the program's end; DECODE.F with the user's proceed; the poll that shows a
refusal, and a refusal kept by one that shows none; the user's proceed; a load that drops one; and a report. -/
theorem witness_BoundHostBreaksNoDuty :
    (let s := boundLine (pending 0x5) (.bus 32 0x004 0 none)
     s.session.bound = true ∧ s.session.awaiting = true ∧ s.hostMoves = true ∧ s.status.busyerr = false
     ∧ s.status.busy = true ∧ s.hostPerforms .rdStatus ∧ ∃ t, step s = .next t)
    ∧ (let s := { refusedDecode with
          session := { refusedDecode.session with bound := true, reported := true } }
       s.session.bound = true ∧ s.hostMoves = true ∧ s.hostDone = true ∧ ∃ t, step s = .next t)
    ∧ (let s := boundLine { refusedDecode with
          session := { refusedDecode.session with consent := some ⟨0, 0, 0⟩, reported := true } } (.wr .cmd 0x12)
       s.session.bound = true ∧ s.hostPerforms (.wrCmd 0x12) ∧ decodeCmd 0x12 = .ok (.decode true)
       ∧ s.session.refused = true ∧ ∃ t, step s = .next t)
    ∧ (let s := boundLine { refusedDecode with
          session := { State.reset.session with awaiting := true } } (.bus 32 0x004 0 none)
       s.hostPerforms .rdStatus ∧ s.status.busy = false ∧ s.status.lenmm = true ∧ s.status.ok = false
       ∧ after (step s) (fun t => t.session.refused) = some true)
    ∧ (let s := boundLine { refusedDecode with status := State.reset.status } (.bus 32 0x004 0 none)
       s.session.refused = true ∧ after (step s) (fun t => t.session.refused) = some true)
    ∧ (let s := { boundLine refusedDecode (.ask 7) with prog := [.ask 7, .label 7] }
       after (step { s with session := { s.session with answers := [true] } }) (fun t => t.session.consent)
         = some (some ⟨0, 0, 0⟩))
    ∧ (let s := boundLine refusedDecode (.bus 32 0x120 0 none)
       s.hostPerforms (.wrBufData 0) ∧ ∃ t, step s = .next t)
    ∧ (let s := { boundLine refusedDecode (.report 1 2) with vars := [(1, 0x28), (2, 8)] }
       s.session.reported = false ∧ after (step s) (fun t => t.session.reported) = some true) :=
  ⟨⟨rfl, rfl, rfl, rfl, rfl, ⟨rfl, rfl⟩, ⟨_, rfl⟩⟩, ⟨rfl, rfl, rfl, ⟨_, rfl⟩⟩,
    ⟨rfl, ⟨rfl, rfl⟩, rfl, rfl, ⟨_, rfl⟩⟩,
    ⟨⟨rfl, rfl⟩, rfl, rfl, rfl, by decide +kernel⟩, ⟨rfl, by decide +kernel⟩, by decide +kernel,
    ⟨⟨rfl, rfl⟩, ⟨_, rfl⟩⟩, ⟨rfl, by decide +kernel⟩⟩

end Sys2Proof.Tests
end

/-! The state after reset, and the life of the STATUS result bits 6:1 (10_state.md R13, R14, R31): issue,
the busy window, the completion. -/
namespace Sys2Proof.Machine

/-! The state after reset. -/

/-- A byte not written since reset reads as INIT_BUF (10_state.md R29, 40_host_bus.md R76). -/
theorem State.memRead_unwritten (s : State) (i : Nat) (hb : s.buf = []) (hi : i < Config.bufCap) :
    s.memRead i = Config.initBuf s.run i := by
  simp [State.memRead, hi, hb, assocGet]

/-- Settles O12: each register by its reset value, the pixels and bytes by the lemmas on what they read as. -/
theorem resetStateValues : Obligations.ResetStateValues :=
  ⟨rfl, rfl, rfl, rfl, rfl, rfl, rfl, rfl, rfl, rfl, State.pix_reset,
    fun i hi => State.reset.memRead_unwritten i rfl hi, rfl⟩

/-- The state after reset meets the invariant. -/
theorem State.reset_inv : State.reset.Inv where
  width := by decide
  height := by decide
  outside := fun r c _ => State.pix_reset r c
  bufWf := Mem.wf_reset
  adjusted := rfl
  pending := fun _ => rfl
  idle := fun _ => .inl rfl
  vars := rfl
  awaits := fun h => nomatch h

/-! STATUS as a word, and its result bits. -/

/-- The bits of the word a read of STATUS returns (10_state.md R13, R24). -/
theorem Status.getLsbD_word (st : Status) (k : Nat) : st.word.getLsbD k =
    [st.busy, st.ok, st.valerr, st.lenmm, st.short, st.hadj, st.illcmd, st.busyerr].getD k false := by
  simp only [Status.word, BitVec.getLsbD_setWidth, BitVec.getLsbD_append]
  match k with
  | 0 | 1 | 2 | 3 | 4 | 5 | 6 | 7 => simp
  | k + 8 => simp

/-- With bits 6:1 clear a read shows each of them 0. -/
theorem Status.getLsbD_word_of_noResult (st : Status) (hn : st.noResult = true) (k : Nat) (h1 : 1 ≤ k)
    (h6 : k ≤ 6) : st.word.getLsbD k = false := by
  obtain ⟨hok, hval, hlen, hshort, hadj, hill⟩ := st.noResult_iff.mp hn
  rw [st.getLsbD_word]
  interval_cases k <;> assumption

/-- Bits 6:1 of STATUS, from OK up. -/
def Status.resultBits (st : Status) : Bool × Bool × Bool × Bool × Bool × Bool :=
  (st.ok, st.valerr, st.lenmm, st.short, st.hadj, st.illcmd)

/-- The combinations a completion can leave in bits 6:1, in the order of 10_state.md R14. -/
def completionResults : List (Bool × Bool × Bool × Bool × Bool × Bool) := [
  (true, false, false, false, false, false),
  (true, false, false, false, true, false),
  (true, false, true, false, false, false),
  (true, false, true, true, false, false),
  (true, false, true, false, true, false),
  (true, false, true, true, true, false),
  (false, true, false, false, false, false),
  (false, true, false, false, true, false),
  (false, false, true, false, false, false),
  (false, false, true, false, true, false),
  (false, false, false, false, false, true)]

theorem Status.completedResult_iff (st : Status) :
    st.completedResult = true ↔ st.resultBits ∈ completionResults := by
  obtain ⟨busy, ok, valerr, lenmm, short, hadj, illcmd, busyerr⟩ := st
  revert busy ok valerr lenmm short hadj illcmd busyerr
  decide

/-! The ends of a command. Each starts from bits 6:1 clear and leaves a result of 10_state.md R14. -/

theorem Status.completedResult_succeeded (st : Status) (hn : st.noResult = true) :
    st.succeeded.completedResult = true := by
  obtain ⟨-, hval, hlen, hshort, hadj, hill⟩ := st.noResult_iff.mp hn
  simp [Status.completedResult, Status.succeeded, *]

theorem Status.completedResult_illcmd (st : Status) (hn : st.noResult = true) :
    (st.record .illcmd).ended.completedResult = true := by
  obtain ⟨hok, hval, hlen, hshort, hadj, -⟩ := st.noResult_iff.mp hn
  simp [Status.completedResult, Status.record, Status.ended, *]

/-- The end by VALERR, whatever CheckDims reports in HADJ. -/
theorem Status.completedResult_valerr (st : Status) (hn : st.noResult = true) (b : Bool) :
    { st with hadj := b, valerr := true, busy := false : Status }.completedResult = true := by
  obtain ⟨hok, -, hlen, hshort, -, hill⟩ := st.noResult_iff.mp hn
  simp [Status.completedResult, *]

/-- The end by a refused length, whatever CheckDims reports in HADJ. -/
theorem Status.completedResult_refused (st : Status) (hn : st.noResult = true) (b : Bool) :
    { st with hadj := b, lenmm := true, busy := false : Status }.completedResult = true := by
  obtain ⟨hok, hval, -, hshort, -, hill⟩ := st.noResult_iff.mp hn
  simp [Status.completedResult, *]

/-- The end with a new grid: SHORT only beside LENMM. -/
theorem Status.completedResult_replaced (st : Status) (hn : st.noResult = true) (b lenmm short : Bool)
    (hs : short = true → lenmm = true) :
    { st with hadj := b, ok := true, busy := false, lenmm := st.lenmm || lenmm, short := st.short || short
      : Status }.completedResult = true := by
  obtain ⟨-, hval, hlen, hshort, -, hill⟩ := st.noResult_iff.mp hn
  cases b <;> cases short <;> cases lenmm <;> simp_all [Status.completedResult]

/-- A command completed with bits 6:1 clear ends with BUSY clear and a result of 10_state.md R14. -/
theorem exec_command_completes (s t : State) (i : Instr) (hi : isCommand i = true)
    (hn : s.status.noResult = true) (h : exec i s = .next t) :
    t.status.busy = false ∧ t.status.completedResult = true := by
  cases i <;> simp [isCommand] at hi
  case encode =>
    obtain rfl := Host.Outcome.next.inj ((exec_encode s).symm.trans h)
    exact ⟨rfl, s.status.completedResult_succeeded hn⟩
  case decode force =>
    rcases exec_decode_cases s force with ⟨-, e⟩ | ⟨-, -, -, e⟩ | ⟨-, -, e⟩ <;>
      obtain rfl := Host.Outcome.next.inj (e.symm.trans h)
    · exact ⟨rfl, s.status.completedResult_valerr hn _⟩
    · exact ⟨rfl, s.status.completedResult_refused hn _⟩
    · exact ⟨rfl, s.status.completedResult_replaced hn _ _ _
        fun hs => decide_eq_true (Nat.ne_of_lt (of_decide_eq_true hs))⟩
  case resize =>
    rcases exec_resize_cases s with ⟨-, e⟩ | ⟨-, e⟩ <;>
      obtain rfl := Host.Outcome.next.inj (e.symm.trans h)
    · exact ⟨rfl, s.status.completedResult_valerr hn _⟩
    · have hr := s.status.completedResult_replaced hn
        (s.status.hadj || decide (normH s.argB.toInt ≠ s.argB.toInt)) false false id
      simp only [Bool.or_false] at hr
      exact ⟨rfl, hr⟩
  case toggle =>
    rcases exec_toggle_cases s with ⟨-, -, -, -, e⟩ | ⟨-, e⟩ <;>
      obtain rfl := Host.Outcome.next.inj (e.symm.trans h) <;>
      exact ⟨rfl, s.status.completedResult_succeeded hn⟩
  case invert =>
    obtain rfl := Host.Outcome.next.inj ((exec_invert s).symm.trans h)
    exact ⟨rfl, s.status.completedResult_succeeded hn⟩

/-! The block's step. -/

/-- A completion is the block's step with this step's reset sample used up. -/
theorem step_of_blockCompletes (s : State) (hc : s.blockCompletes = true) :
    step s = blockStep exec s.sampled := by
  obtain ⟨hr, hm⟩ : s.resetAsserted = false ∧ s.sampled.blockMoves = true := by
    simpa [State.blockCompletes] using hc
  simp [step, stepWith, hr, hm]

/-- Only a pending command completes. -/
theorem State.busy_of_blockCompletes (s : State) (hc : s.blockCompletes = true) : s.status.busy = true := by
  simp only [State.blockCompletes, State.blockMoves, State.sampled_status, Bool.and_eq_true] at hc
  exact hc.2.1

/-- The block's step with bits 6:1 clear, its word legal or not, ends the command with a result of 10_state.md R14. -/
theorem blockStep_completes (s : State) (hn : s.status.noResult = true) :
    ∃ t, blockStep exec s = .next t ∧ t.status.busy = false ∧ t.status.completedResult = true := by
  unfold blockStep
  cases hd : decodeCmd s.pend with
  | ok i =>
    obtain ⟨t, ht⟩ := exec_answers_next i s
    exact ⟨t, ht, exec_command_completes s t i (decodeCmd_isCommand _ _ hd) hn ht⟩
  | error e => exact ⟨_, rfl, rfl, s.status.completedResult_illcmd hn⟩

/-- A completion from the invariant ends the command with a result of 10_state.md R14. -/
theorem step_completes (s : State) (hs : s.Inv) (hc : s.blockCompletes = true) :
    ∃ t, step s = .next t ∧ t.status.busy = false ∧ t.status.completedResult = true := by
  rw [step_of_blockCompletes s hc]
  exact blockStep_completes s.sampled (hs.pending (s.busy_of_blockCompletes hc))

/-! Each result is some completion's. -/

/-- The state after reset but for operands and a declared length, with a command word pending whose host steps have passed. -/
def completing (w a b : Word) (len : Half) : State :=
  { State.reset with
    argA := a, argB := b, bufLen := len, pend := w
    status := State.reset.status.issued, session := State.reset.session.issued }

theorem completing_inv (w a b : Word) (len : Half) : (completing w a b len).Inv :=
  { State.reset_inv with
    pending := fun _ => rfl
    idle := fun h => nomatch h
    awaits := fun _ => rfl }

/-- Each result is left by INVERT, by RESIZE, by DECODE (0x12 forced, 0x2 not) or by the illegal word 0: a width of 0
gives VALERR, a height of 10, normalized to 8, gives HADJ, and a length other than the 8 bytes of an 8 by 8 grid LENMM. -/
theorem completionResults_reached (c : Bool × Bool × Bool × Bool × Bool × Bool) (hc : c ∈ completionResults) :
    ∃ w a b len t, step (completing w a b len) = .next t ∧ t.status.resultBits = c := by
  simp only [completionResults, List.mem_cons, List.not_mem_nil, or_false] at hc
  rcases hc with rfl | rfl | rfl | rfl | rfl | rfl | rfl | rfl | rfl | rfl | rfl
  · exact ⟨0x5, 0, 0, 0, _, rfl, rfl⟩
  · exact ⟨0x3, 8, 10, 0, _, rfl, rfl⟩
  · exact ⟨0x12, 8, 8, 9, _, rfl, rfl⟩
  · exact ⟨0x12, 8, 8, 7, _, rfl, rfl⟩
  · exact ⟨0x12, 8, 10, 9, _, rfl, rfl⟩
  · exact ⟨0x12, 8, 10, 7, _, rfl, rfl⟩
  · exact ⟨0x3, 0, 8, 0, _, rfl, rfl⟩
  · exact ⟨0x3, 0, 10, 0, _, rfl, rfl⟩
  · exact ⟨0x2, 8, 8, 7, _, rfl, rfl⟩
  · exact ⟨0x2, 8, 10, 7, _, rfl, rfl⟩
  · exact ⟨0x0, 0, 0, 0, _, rfl, rfl⟩

/-! The bus and STATUS. -/

/-- A write to CMD while BUSY = 0 issues the word (40_host_bus.md R59). -/
theorem exec_wrCmd_idle (s : State) (w : Word) (hb : s.status.busy = false) :
    exec (.wrCmd w) s = .next (s.issue w) := by
  rw [exec_write s (.wrCmd w) rfl, State.hostWrite_idle s _ hb]
  rfl

/-- A write to STATUS touches BUSYERR alone, in the busy window or not (40_host_bus.md R58, R62). -/
theorem exec_wrStatus_status (s t : State) (w : Word) (h : exec (.wrStatus w) s = .next t) :
    t.status = { s.status with busyerr := t.status.busyerr } := by
  rw [exec_write s (.wrStatus w) rfl] at h
  obtain rfl := Host.Outcome.next.inj h
  cases hb : s.status.busy
  · rw [State.hostWrite_idle s _ hb]
    simp [State.writeEffect, s.status.hostWritten_eq w]
  · rw [State.hostWrite_busy s _ hb]

/-- Settles O46: issue by `exec_wrCmd_idle`, the completion by the ends of the five commands and of an illegal word, a
completion for each combination listed, the read in the busy window by the invariant's `pending`. -/
theorem statusResultLifecycle : Obligations.StatusResultLifecycle := by
  refine ⟨fun s w hb => ⟨s.issue w, exec_wrCmd_idle s w hb, rfl, rfl⟩, fun s hs hc => ?_, fun c hc => ?_,
    fun s hs hb => ⟨s.status.word, rfl, ?_, s.status.getLsbD_word_of_noResult (hs.pending hb)⟩,
    exec_wrStatus_status⟩
  · obtain ⟨t, ht, hbusy, hres⟩ := step_completes s hs hc
    exact ⟨t, ht, hbusy, t.status.completedResult_iff.mp hres⟩
  · obtain ⟨w, a, b, len, t, ht, hbits⟩ := completionResults_reached c hc
    exact ⟨completing w a b len, t, completing_inv w a b len, rfl, ht, hbits⟩
  · rw [s.status.getLsbD_word]
    exact hb

end Sys2Proof.Machine

/-! The packed layout fits the buffer (20_memory.md R33): at the current dimensions, and at those CheckDims accepts. -/
namespace Sys2Proof.Machine

/-- The current grid packs into at most BUF_CAP bytes. -/
theorem State.Inv.packedLen_le {s : State} (hs : s.Inv) : packedLen s.gridW s.gridH ≤ 1024 := by
  obtain ⟨-, hw⟩ := hs.width
  obtain ⟨-, -, hh⟩ := hs.height
  exact Machine.packedLen_le _ _ hw hh

/-- The dimensions CheckDims accepts are the requested width and the normalized height, and they pass Valid. -/
theorem State.checkDims_accepts {s u : State} {wreq hreq : Int} {w h : Nat}
    (ha : s.checkDims wreq hreq = (u, some (w, h))) :
    validDims wreq (normH hreq) = true ∧ w = wreq.toNat ∧ h = (normH hreq).toNat := by
  rcases s.checkDims_cases wreq hreq with ⟨hv, hc⟩ | ⟨-, hc⟩
  · obtain ⟨-, hdims⟩ := Prod.mk.inj (hc.symm.trans ha)
    obtain ⟨rfl, rfl⟩ := Prod.mk.inj (Option.some.inj hdims)
    exact ⟨hv, rfl, rfl⟩
  · obtain ⟨-, hdims⟩ := Prod.mk.inj (hc.symm.trans ha)
    cases hdims

/-- A grid of dimensions CheckDims accepts packs into at most BUF_CAP bytes. -/
theorem State.packedLen_le_of_checkDims {s u : State} {wreq hreq : Int} {w h : Nat}
    (ha : s.checkDims wreq hreq = (u, some (w, h))) : packedLen w h ≤ 1024 := by
  obtain ⟨hv, rfl, rfl⟩ := State.checkDims_accepts ha
  obtain ⟨-, hw, -, -, -, hh, -⟩ := validDims_bounds wreq hreq hv
  exact packedLen_le _ _ hw hh

/-- Settles O35: an index lies below the packed length by `packedIndex_lt`; the invariant and CheckDims bound the
dimensions, and so the length. -/
theorem packedIndicesFitTheBuffer : Obligations.PackedIndicesFitTheBuffer :=
  ⟨fun s p c hs hp hc => ⟨rfl, packedIndex_lt s.gridW s.gridH p c hp hc, hs.packedLen_le⟩,
    fun _ _ _ _ w h p c ha hp hc => ⟨packedIndex_lt w h p c hp hc, State.packedLen_le_of_checkDims ha⟩,
    rfl⟩

end Sys2Proof.Machine

/-! The command words: which of them decode, and what an illegal one does (30_encoding.md R49, R50, R52). -/
namespace Sys2Proof

/-- RSV is 0 exactly where bits 31:5 are (30_encoding.md R49). -/
theorem cmdReserved_eq_zero_iff (w : Word) : cmdReserved w = 0 ↔ w >>> 5 = 0 :=
  (BitVec.toNat_eq (y := 0)).symm

/-- A word with RSV = 0 is its F and OP fields (30_encoding.md R49). -/
theorem eq_ofNat_of_cmdReserved (w : Word) (hr : cmdReserved w = 0) :
    w = BitVec.ofNat 32 (16 * (cmdForce w).toNat + cmdOp w) := by
  have hlt : w.toNat < 32 := by
    rw [cmdReserved, BitVec.toNat_ushiftRight, Nat.shiftRight_eq_div_pow] at hr
    omega
  have hf : (cmdForce w).toNat = w.toNat / 16 % 2 := by
    rw [cmdForce, BitVec.getLsbD, Nat.toNat_testBit]
  have ho : cmdOp w = w.toNat % 16 := by
    rw [cmdOp, BitVec.toNat_setWidth]
  apply BitVec.eq_of_toNat_eq
  rw [BitVec.toNat_ofNat, hf, ho]
  omega

/-- A word decodes exactly where its fields are legal: the branches of the decoder (30_encoding.md R52). -/
theorem decodeCmd_ok_iff (w : Word) : (∃ i, decodeCmd w = .ok i) ↔
    cmdOp w ∈ [1, 2, 3, 4, 5] ∧ cmdReserved w = 0 ∧ (cmdForce w = false ∨ cmdOp w = 2) := by
  unfold decodeCmd
  by_cases hr : cmdReserved w = 0
  · rw [if_neg (not_not_intro hr)]
    split <;> simp_all
  · simp [hr]

/-- The legal fields make up the six words of 30_encoding.md R50. -/
theorem ofNat_mem_of_legalFields : ∀ op ∈ [1, 2, 3, 4, 5], ∀ f : Bool, f = false ∨ op = 2 →
    BitVec.ofNat 32 (16 * f.toNat + op) ∈ ([0x1, 0x2, 0x12, 0x3, 0x4, 0x5] : List Word) := by
  decide

/-- Settles O2: a word that decodes is its F and OP fields, and the legal ones make up the six words; each of the six
decodes by evaluation. -/
theorem exactlySixLegalWords : Obligations.ExactlySixLegalWords := by
  refine ⟨fun w => ⟨fun h => ?_, fun h => ?_⟩, rfl, rfl, rfl, rfl, rfl, rfl⟩
  · obtain ⟨hop, hr, hf⟩ := (decodeCmd_ok_iff w).mp h
    rw [eq_ofNat_of_cmdReserved w hr]
    exact ofNat_mem_of_legalFields _ hop _ hf
  · simp only [List.mem_cons, List.not_mem_nil, or_false] at h
    rcases h with rfl | rfl | rfl | rfl | rfl | rfl <;> exact ⟨_, rfl⟩

end Sys2Proof

namespace Sys2Proof.Machine

/-- The completion of an illegal word raises ILLCMD (30_encoding.md R52, 40_host_bus.md R60). -/
theorem step_of_illegal (s : State) (hc : s.blockCompletes = true) (hi : ∀ i, decodeCmd s.pend ≠ .ok i) :
    step s = .next (s.sampled.raise .illcmd) := by
  rw [step_of_blockCompletes s hc, blockStep, State.sampled_pend]
  cases hd : decodeCmd s.pend with
  | ok i => exact absurd hd (hi i)
  | error e => rfl

/-- ILLCMD raised with bits 6:1 clear is then the one result bit set, with BUSYERR kept (30_encoding.md R52). -/
theorem Status.record_illcmd_ended (st : Status) (hn : st.noResult = true) :
    (st.record .illcmd).ended = ⟨false, false, false, false, false, false, true, st.busyerr⟩ := by
  obtain ⟨hok, hval, hlen, hshort, hadj, -⟩ := st.noResult_iff.mp hn
  simp [Status.record, Status.ended, *]

/-- Settles O8: legality by `decodeCmd_ok_iff`, the issue by `exec_wrCmd_idle`, the completion by `step_of_illegal`. -/
theorem illegalWordRaisesIllcmdOnly : Obligations.IllegalWordRaisesIllcmdOnly := by
  refine fun w => ⟨?_, fun hi => ⟨fun s hb => ⟨s.issue w, exec_wrCmd_idle s w hb, rfl, rfl⟩, ?_⟩⟩
  · rw [← cmdReserved_eq_zero_iff]
    exact decodeCmd_ok_iff w
  · rintro s hc rfl hn
    rw [step_of_illegal s hc hi, ← s.status.record_illcmd_ended hn]
    rfl

end Sys2Proof.Machine

/-! The 22 bus transactions one by one (40_host_bus.md): the selectors that decode, the writes, the reads. -/
namespace Sys2Proof

/-- The 22 admitted selectors with their transactions, a write's data with it (40_host_bus.md R82). -/
def admittedTransactions (data : Word) : List (BitVec 9 × Instr) := [
  (0x000, .rdCmd), (0x004, .rdStatus), (0x008, .rdArgA), (0x00C, .rdArgB), (0x010, .rdGridDim),
  (0x014, .rdAdjH), (0x018, .rdBufLen), (0x01C, .rdBufPtr), (0x020, .rdBufData), (0x024, .rdPixSel),
  (0x028, .rdPixVal), (0x100, .wrCmd data), (0x104, .wrStatus data), (0x108, .wrArgA data),
  (0x10C, .wrArgB data), (0x110, .wrGridDim data), (0x114, .wrAdjH data), (0x118, .wrBufLen data),
  (0x11C, .wrBufPtr data), (0x120, .wrBufData data), (0x124, .wrPixSel data), (0x128, .wrPixVal data)]

/-- The decoder answers exactly the table: each of its branches is an entry of it, or an error (20_memory.md R35). -/
theorem decodeBus_ok_iff (sel : BitVec 9) (data : Word) (i : Instr) :
    decodeBus sel data = .ok i ↔ (sel, i) ∈ admittedTransactions data := by
  constructor
  · intro h
    simp only [admittedTransactions, List.mem_cons, Prod.mk.injEq, BitVec.toNat_eq]
    unfold decodeBus at h
    split at h
    case h_23 => split at h <;> cases h
    all_goals simp_all
  · have hall : (admittedTransactions data).map (fun p => decodeBus p.1 data) =
        (admittedTransactions data).map (fun p => .ok p.2) := rfl
    exact List.map_inj_left.mp hall (sel, i)

end Sys2Proof

namespace Sys2Proof.Machine

/-! A host access. -/

/-- A host step performs the host's line, but where a bound host would break a duty (40_host_bus.md R58). -/
theorem step_of_hostMoves (s : State) (line : HostLine) (hm : s.hostMoves = true)
    (hl : s.prog[s.pos]? = some line) :
    step s = if s.breaksDuty then .refused .hostDutyBroken else hostLine exec line s.sampled.counted := by
  obtain ⟨hr, hb⟩ : s.resetAsserted = false ∧ s.sampled.blockMoves = false := by
    simpa [State.hostMoves] using hm
  simp [step, stepWith, hr, hb, hl]

/-- An access to a selector that does not decode is refused, whatever its width (20_memory.md R35). -/
theorem busAccess_refused (run : Instr → State → Result) (width : Nat) (sel : BitVec 9) (data : Word)
    (bind : Option Nat) (go : State → State) (s : State) (hd : ∀ i, decodeBus sel data ≠ .ok i) :
    ∃ r, busAccess run width sel data bind go s = .refused r := by
  unfold busAccess
  by_cases hw : width = Config.accessBits
  · rw [if_pos hw]
    cases he : decodeBus sel data with
    | ok i => exact absurd he (hd i)
    | error e => exact ⟨_, rfl⟩
  · exact ⟨_, if_neg hw⟩

/-- Settles O3: the table by `decodeBus_ok_iff`; the refusal by the host's step, which comes to the access or, for a
bound host, to a duty broken. -/
theorem admittedSelectorsAreExactly22 : Obligations.AdmittedSelectorsAreExactly22 := by
  refine ⟨decodeBus_ok_iff, fun s width sel data bind hm hl hd => ?_⟩
  rw [step_of_hostMoves s _ hm hl]
  cases s.breaksDuty
  · exact busAccess_refused exec width sel data bind State.nextLine _ hd
  · exact ⟨_, rfl⟩

/-! The bus writes. -/

/-- A write while BUSY = 1 sets BUSYERR and does nothing else (40_host_bus.md R58). -/
theorem exec_write_busy (s : State) (i : Instr) (hw : isBusWrite i = true) (hb : s.status.busy = true) :
    exec i s = .next { s with status := { s.status with busyerr := true } } := by
  rw [exec_write s i hw, s.hostWrite_busy _ hb]

/-- A write while BUSY = 0 has its own effect. -/
theorem exec_write_idle (s : State) (i : Instr) (hw : isBusWrite i = true) (hb : s.status.busy = false) :
    exec i s = .next (s.writeEffect i) := by
  rw [exec_write s i hw, s.hostWrite_idle _ hb]

/-- Drawing the delay of a command touches the delay and where it comes from alone (log entry 3). -/
theorem State.startDelay_eq (s : State) : s.startDelay = { s with
    delay := s.startDelay.delay, latencies := s.startDelay.latencies, draws := s.startDelay.draws } := by
  unfold State.startDelay
  split <;> rfl

/-- Settles O17: the issue by `exec_wrCmd_idle`, its delay by `State.startDelay_eq`. -/
theorem wrCmdIssuesTheWord : Obligations.WrCmdIssuesTheWord := by
  refine fun s data => ⟨fun hb => ?_, exec_write_busy s (.wrCmd data) rfl⟩
  rw [exec_wrCmd_idle s data hb, State.issue, s.startDelay_eq]
  exact ⟨_, _, _, rfl⟩

/-- Settles O18: `Status.hostWritten_eq` while BUSY = 0, the dropped write while BUSY = 1. -/
theorem wrStatusClearsBusyerrByBit7 : Obligations.WrStatusClearsBusyerrByBit7 := by
  intro s data
  cases hb : s.status.busy
  · rw [exec_write_idle s (.wrStatus data) rfl hb, State.writeEffect, Status.hostWritten_eq]
    rfl
  · rw [exec_write_busy s (.wrStatus data) rfl hb]
    rfl

/-- Settles O19: each write by its own effect while BUSY = 0, and dropped while BUSY = 1. -/
theorem wrArgStoresAllBits : Obligations.WrArgStoresAllBits := fun s data =>
  ⟨fun hb => ⟨exec_write_idle s (.wrArgA data) rfl hb, exec_write_idle s (.wrArgB data) rfl hb⟩,
    fun hb => ⟨exec_write_busy s (.wrArgA data) rfl hb, exec_write_busy s (.wrArgB data) rfl hb⟩⟩

/-- Settles O20: the effect of each of the three is the state itself. -/
theorem writesToReadOnlyRegistersHaveNoEffect : Obligations.WritesToReadOnlyRegistersHaveNoEffect := by
  intro s data i hi
  simp only [List.mem_cons, List.not_mem_nil, or_false] at hi
  rcases hi with rfl | rfl | rfl <;>
    exact ⟨exec_write_idle s _ rfl, exec_write_busy s _ rfl⟩

/-- The COL field is bits 7:0 of PIX_SEL (10_state.md R22). -/
theorem State.selCol_eq (s : State) : s.selCol = s.pixSel.toNat % 256 :=
  BitVec.toNat_setWidth 8 s.pixSel

/-- The ROW field is bits 15:8 of PIX_SEL (10_state.md R22). -/
theorem State.selRow_eq (s : State) : s.selRow = s.pixSel.toNat / 256 := by
  rw [State.selRow, BitVec.toNat_ushiftRight, Nat.shiftRight_eq_div_pow]

/-- Settles O21: the low 16 bits of the data are its value modulo 65536, and COL and ROW the halves of that. -/
theorem wrHalfRegistersTakeLow16Bits : Obligations.WrHalfRegistersTakeLow16Bits := by
  intro s data
  have hlow : data.setWidth 16 = BitVec.ofNat 16 (data.toNat % 65536) := by
    apply BitVec.eq_of_toNat_eq
    simp
  refine ⟨fun hb => ⟨?_, ?_, _, exec_write_idle s (.wrPixSel data) rfl hb, rfl, ?_, ?_⟩, fun hb i hi => ?_⟩
  · rw [exec_write_idle s (.wrBufLen data) rfl hb, State.writeEffect, hlow]
  · rw [exec_write_idle s (.wrBufPtr data) rfl hb, State.writeEffect, hlow]
  · simp only [State.selCol_eq, State.writeEffect, BitVec.toNat_setWidth]
    omega
  · simp only [State.selRow_eq, State.writeEffect, BitVec.toNat_setWidth]
    omega
  · simp only [List.mem_cons, List.not_mem_nil, or_false] at hi
    rcases hi with rfl | rfl | rfl <;> exact exec_write_busy s _ rfl hb

/-- A byte write changes BUF alone. -/
theorem State.memWrite_eq (s : State) (i : Nat) (v : Byte) :
    s.memWrite i v = { s with buf := (s.memWrite i v).buf } :=
  State.memWriteAll_eq [(i, v)] s

/-- A byte write at 1024 or above stores nothing (40_host_bus.md R75). -/
theorem State.memWrite_high (s : State) (i : Nat) (v : Byte) (h : Config.bufCap ≤ i) : s.memWrite i v = s :=
  if_neg (Nat.not_lt.mpr h)

/-- The advance of BUF_PTR leaves every byte alone. -/
theorem State.memRead_advancePtr (s : State) (a : Nat) : s.advancePtr.memRead a = s.memRead a :=
  s.memRead_congr s.advancePtr rfl rfl a

/-- Settles O22: the byte stored by read after write, the others by the frame of a byte write, BUF kept at 1024 and
above. -/
theorem wrBufDataStoresOneByte : Obligations.WrBufDataStoresOneByte := by
  refine fun s data => ⟨fun hb => ⟨_, exec_write_idle s (.wrBufData data) rfl hb, ?_, ?_, fun hp => ?_,
    fun a ha => ?_, fun hp => ?_⟩, exec_write_busy s (.wrBufData data) rfl⟩
  · rw [State.writeEffect, State.memWrite_eq]
    rfl
  · simp [State.writeEffect, BitVec.toNat_add]
  · rw [State.writeEffect, State.memRead_advancePtr, State.memRead_memWrite_same _ _ _ hp,
      BitVec.toNat_setWidth]
  · rw [State.writeEffect, State.memRead_advancePtr, State.memRead_memWrite_other _ _ _ _ ha]
  · rw [State.writeEffect, State.memWrite_high _ _ _ hp, State.advancePtr_buf]

/-! The bus reads. -/

/-- A read other than RD BUF_DATA answers its register's value and changes nothing else, where BUSY = 0 or the read is
none of the six that BUSY = 1 leaves unspecified (40_host_bus.md R58). -/
theorem exec_read_answers (s : State) (i : Instr) (hi : isBusRead i = true) (hne : i ≠ .rdBufData)
    (h : isGuardedRead i = false ∨ s.status.busy = false) :
    exec i s = .next { s with rdata := s.regValue (readReg i) } := by
  have hg : (isGuardedRead i && s.status.busy) = false := by
    rcases h with h | h <;> simp [h]
  rw [exec_read s i hi, hg, if_neg Bool.false_ne_true, if_neg hne]
  rfl

/-- Settles O23: the bits of STATUS by `Status.getLsbD_word`. -/
theorem rdCmdAndRdStatusAnswerInEveryState : Obligations.RdCmdAndRdStatusAnswerInEveryState := by
  refine fun s => ⟨exec_read_answers s .rdCmd rfl nofun (.inl rfl), s.status.word,
    exec_read_answers s .rdStatus rfl nofun (.inl rfl), ?_⟩
  simp only [Status.getLsbD_word]
  refine ⟨rfl, rfl, rfl, rfl, rfl, rfl, rfl, rfl, fun k hk => ?_⟩
  exact List.getD_eq_default _ _ hk

/-- A 16-bit register reads as its value. -/
theorem toNat_zext32_half (v : Half) : (zext32 v).toNat = v.toNat :=
  BitVec.toNat_setWidth_of_le (by decide)

/-- Settles O24: PIX_SEL by its fields `State.selRow_eq` and `State.selCol_eq`. -/
theorem rdArgAndPixSelAnswerInEveryState : Obligations.RdArgAndPixSelAnswerInEveryState := by
  refine fun s => ⟨exec_read_answers s .rdArgA rfl nofun (.inl rfl),
    exec_read_answers s .rdArgB rfl nofun (.inl rfl), _,
    exec_read_answers s .rdPixSel rfl nofun (.inl rfl), ?_⟩
  have hlt := s.pixSel.isLt
  rw [readReg, State.regValue, toNat_zext32_half, s.selRow_eq, s.selCol_eq]
  omega

/-- GRID_DIM reads as GRID_H in bits 15:8 and GRID_W in bits 7:0, each small enough for its byte (40_host_bus.md R68). -/
theorem State.toNat_regValue_gridDim (s : State) (hh : s.gridH < 256) (hw : s.gridW < 256) :
    (s.regValue .gridDim).toNat = s.gridH * 256 + s.gridW := by
  rw [State.regValue, toNat_zext32_half, BitVec.toNat_append, BitVec.toNat_ofNat, BitVec.toNat_ofNat,
    Nat.mod_eq_of_lt hh, Nat.mod_eq_of_lt hw, ← Nat.shiftLeft_add_eq_or_of_lt hw, Nat.shiftLeft_eq]

/-- Settles O25: the invariant bounds the dimensions, so that each fits its byte of GRID_DIM. -/
theorem rdDimensionsAndBufferRegisters : Obligations.RdDimensionsAndBufferRegisters := by
  intro s hs hb
  obtain ⟨-, hw⟩ := hs.width
  obtain ⟨-, -, hh⟩ := hs.height
  exact ⟨⟨_, exec_read_answers s .rdGridDim rfl nofun (.inr hb),
      s.toNat_regValue_gridDim (Nat.lt_of_le_of_lt hh (by decide)) (Nat.lt_of_le_of_lt hw (by decide))⟩,
    exec_read_answers s .rdAdjH rfl nofun (.inr hb),
    ⟨_, exec_read_answers s .rdBufLen rfl nofun (.inr hb), toNat_zext32_half _⟩,
    ⟨_, exec_read_answers s .rdBufPtr rfl nofun (.inr hb), toNat_zext32_half _⟩⟩

/-- Whether a cell is in the grid. -/
theorem State.inGrid_iff (s : State) (r c : Nat) : s.inGrid r c = true ↔ r < s.gridH ∧ c < s.gridW := by
  simp [State.inGrid]

/-- Settles O27: the two branches of PIX_VAL, by whether the selected cell is in the grid. -/
theorem rdPixValReadsThePixel : Obligations.RdPixValReadsThePixel := by
  refine fun s hb => ⟨_, exec_read_answers s .rdPixVal rfl nofun (.inr hb), fun hr hc => ?_, fun ho => ?_⟩
  · rw [readReg, State.regValue, if_pos ((s.inGrid_iff _ _).mpr ⟨hr, hc⟩)]
    cases s.pix s.selRow s.selCol <;> rfl
  · have hout : ¬ s.inGrid s.selRow s.selCol = true := by
      rw [s.inGrid_iff]
      omega
    rw [readReg, State.regValue, if_neg hout]

end Sys2Proof.Machine

/-! The codec commands (41_codec.md): the bytes ENCODE packs, the grid DECODE unpacks, and the two round trips. -/
namespace Sys2Proof.Machine

/-! The packed layout (20_memory.md R33). -/

/-- Every index below the packed length is that of some page and column. -/
theorem exists_packedIndex (w h a : Nat) (ha : a < packedLen w h) :
    ∃ p c, p < h / 8 ∧ c < w ∧ packedIndex w p c = a := by
  have hw : 0 < w := Nat.pos_of_ne_zero fun h0 => by simp [packedLen, h0] at ha
  exact ⟨a / w, a % w, Nat.div_lt_of_lt_mul (Nat.mul_comm (h / 8) w ▸ ha), Nat.mod_lt a hw,
    Nat.div_add_mod' a w⟩

/-! ENCODE. -/

/-- An ENCODE leaves the byte of each page and column packed (41_codec.md R83). -/
theorem exec_encode_memRead_packed {s t : State} (ht : exec .encode s = .next t)
    (hcap : packedLen s.gridW s.gridH ≤ 1024) {p c : Nat} (hp : p < s.gridH / 8) (hc : c < s.gridW) :
    t.memRead (packedIndex s.gridW p c) = s.packedByte p c := by
  rw [exec_encode_memRead s t ht, s.memRead_packed p c hp hc hcap]

/-- An ENCODE leaves every byte from the packed length on as it was (41_codec.md R83). -/
theorem exec_encode_memRead_past {s t : State} (ht : exec .encode s = .next t) {a : Nat}
    (ha : packedLen s.gridW s.gridH ≤ a) : t.memRead a = s.memRead a := by
  rw [exec_encode_memRead s t ht]
  exact s.memRead_packed_other a fun p c hp hc =>
    Nat.ne_of_gt (Nat.lt_of_lt_of_le (packedIndex_lt _ _ p c hp hc) ha)

/-- An ENCODE sets BUF_LEN to the packed length where the grid fits the buffer (41_codec.md R83, R85). -/
theorem exec_encode_bufLen {s t : State} (ht : exec .encode s = .next t)
    (hcap : packedLen s.gridW s.gridH ≤ 1024) : t.bufLen.toNat = packedLen s.gridW s.gridH := by
  obtain rfl := Host.Outcome.next.inj ((exec_encode s).symm.trans ht)
  exact (BitVec.toNat_ofNat _ 16).trans (Nat.mod_eq_of_lt (Nat.lt_of_le_of_lt hcap (by decide)))

/-- Settles O33: the bytes by `exec_encode_memRead_packed` and `exec_encode_memRead_past`, the other fields by
`exec_encode`; the invariant bounds the packed length. -/
theorem encodePacksTheGrid : Obligations.EncodePacksTheGrid := by
  intro s hs
  have ht := exec_encode s
  refine ⟨_, ht, fun p c b hp hc hb => ?_, fun a ha => exec_encode_memRead_past ht ha,
    exec_encode_bufLen ht hs.packedLen_le, rfl, rfl, rfl⟩
  rw [← s.getLsbD_packedByte p c b hb, ← exec_encode_memRead_packed ht hs.packedLen_le hp hc]
  rfl

/-- Settles O34: ENCODE keeps the dimensions, so that `exec_encode_bufLen` speaks of those after it. -/
theorem encodedLengthLaw : Obligations.EncodedLengthLaw := by
  intro s t hs ht
  have hlen := exec_encode_bufLen ht hs.packedLen_le
  obtain rfl := Host.Outcome.next.inj ((exec_encode s).symm.trans ht)
  exact hlen

/-! DECODE. The STATUS at each of its three ends, with bits 6:1 clear on entry (41_codec.md R84). -/

theorem Status.valerr_of_noResult (st : Status) (hn : st.noResult = true) (hadj : Bool) :
    { st with hadj := st.hadj || hadj, valerr := true, busy := false : Status } =
      ⟨false, false, true, false, false, hadj, false, st.busyerr⟩ := by
  obtain ⟨hok, -, hlen, hshort, hh, hill⟩ := st.noResult_iff.mp hn
  simp [*]

theorem Status.refused_of_noResult (st : Status) (hn : st.noResult = true) (hadj : Bool) :
    { st with hadj := st.hadj || hadj, lenmm := true, busy := false : Status } =
      ⟨false, false, false, true, false, hadj, false, st.busyerr⟩ := by
  obtain ⟨hok, hval, -, hshort, hh, hill⟩ := st.noResult_iff.mp hn
  simp [*]

theorem Status.replaced_of_noResult (st : Status) (hn : st.noResult = true) (hadj lenmm short : Bool) :
    { st with hadj := st.hadj || hadj, ok := true, busy := false, lenmm := st.lenmm || lenmm, short := st.short || short
      : Status } =
      ⟨false, true, false, lenmm, short, hadj, false, st.busyerr⟩ := by
  obtain ⟨-, hval, hlen, hshort, hh, hill⟩ := st.noResult_iff.mp hn
  simp [*]

/-- A cell of the grid DECODE builds, by its page, its row in the page and its column (41_codec.md R84). -/
theorem State.px_unpackedGrid_page (s : State) {w h p c b : Nat} (hw : w ≤ 128) (hh : h ≤ 64)
    (hp : p < h / 8) (hc : c < w) (hb : b < 8) :
    Grid.px (s.unpackedGrid w h) (p * 8 + b) c =
      if packedIndex w p c < s.bufLen.toNat then (s.memRead (packedIndex w p c)).getLsbD b else false := by
  have hrow : p * 8 + b < h := by omega
  have hpage : (p * 8 + b) / 8 = p := by omega
  have hbit : (p * 8 + b) % 8 = b := by omega
  rw [s.px_unpackedGrid w h _ c hw hh, if_pos ⟨hrow, hc⟩, hpage, hbit]
  split <;> simp [*]

/-- A cell outside the new dimensions is off (41_codec.md R84). -/
theorem State.px_unpackedGrid_outside (s : State) {w h r c : Nat} (hw : w ≤ 128) (hh : h ≤ 64)
    (hrc : h ≤ r ∨ w ≤ c) : Grid.px (s.unpackedGrid w h) r c = false := by
  rw [s.px_unpackedGrid w h r c hw hh, if_neg (by omega)]

/-- Settles O36: the three ends of `exec_decode_cases`, each with bits 6:1 clear on entry; the new grid's cells by
`State.px_unpackedGrid_page` and `State.px_unpackedGrid_outside`. -/
theorem decodeUnpacksTheBuffer : Obligations.DecodeUnpacksTheBuffer := by
  intro s force hn hnorm w h e l adjusted
  rcases exec_decode_cases s force with ⟨hv, ht⟩ | ⟨hv, hl, hf, ht⟩ | ⟨hv, hl, ht⟩
  · refine ⟨_, ht, rfl, rfl, ?_⟩
    rw [if_pos hv]
    exact ⟨s.status.valerr_of_noResult hn _, rfl, rfl, rfl⟩
  · refine ⟨_, ht, rfl, rfl, ?_⟩
    rw [if_neg (ne_false_of_eq_true hv), if_pos ⟨hl, hf⟩]
    exact ⟨s.status.refused_of_noResult hn _, rfl, rfl, rfl⟩
  · have hreplaces : ¬ (l ≠ e ∧ force = false) := by
      rintro ⟨hne, rfl⟩
      exact hl.elim hne nofun
    obtain ⟨-, hw, -, -, -, hh, -⟩ := validDims_bounds s.argA.toInt s.argB.toInt hv
    refine ⟨_, ht, rfl, rfl, ?_⟩
    rw [if_neg (ne_false_of_eq_true hv), if_neg hreplaces]
    exact ⟨s.status.replaced_of_noResult hn _ _ _, rfl, rfl,
      fun p c b hp hc hb => s.px_unpackedGrid_page hw hh hp hc hb,
      fun r c hrc => s.px_unpackedGrid_outside hw hh hrc⟩

/-- A DECODE that set OK replaced the grid, at dimensions that fit the storage (41_codec.md R84). -/
theorem exec_decode_of_ok {s t : State} {force : Bool} (ht : exec (.decode force) s = .next t)
    (hok : t.status.ok = true) (hs : s.status.ok = false) :
    t.grid = s.unpackedGrid t.gridW t.gridH ∧ t.gridW ≤ 128 ∧ t.gridH ≤ 64 := by
  rcases exec_decode_cases s force with ⟨-, e⟩ | ⟨-, -, -, e⟩ | ⟨hv, -, e⟩ <;>
    obtain rfl := Host.Outcome.next.inj (e.symm.trans ht)
  · exact absurd (hok.symm.trans hs) nofun
  · exact absurd (hok.symm.trans hs) nofun
  · obtain ⟨-, hw, -, -, -, hh, -⟩ := validDims_bounds s.argA.toInt s.argB.toInt hv
    exact ⟨rfl, hw, hh⟩

/-! ENCODE, then DECODE (41_codec.md R86). -/

/-- A multiple of 8 is its own normalized height (42_grid.md R88). -/
theorem normH_of_mod_eq_zero {h : Int} (hh : h % 8 = 0) : normH h = h := if_pos hh

/-- A register that holds a dimension reads as it when taken as signed. -/
theorem toInt_ofNat_dim {n : Nat} (hn : n ≤ 128) : (BitVec.ofNat 32 n).toInt = n := by
  have hn32 : (BitVec.ofNat 32 n).toNat = n := (BitVec.toNat_ofNat n 32).trans (Nat.mod_eq_of_lt (by omega))
  rw [BitVec.toInt_eq_toNat_of_lt (by omega), hn32]

/-- The bounds of the current dimensions, as numbers (10_state.md R27). -/
theorem State.Inv.dims {s : State} (hs : s.Inv) :
    1 ≤ s.gridW ∧ s.gridW ≤ 128 ∧ s.gridH % 8 = 0 ∧ 8 ≤ s.gridH ∧ s.gridH ≤ 64 :=
  ⟨hs.width.1, hs.width.2, hs.height⟩

/-- The dimensions of the invariant are accepted as they are (42_grid.md R89). -/
theorem State.Inv.validDims_own {s : State} (hs : s.Inv) : validDims s.gridW s.gridH = true := by
  obtain ⟨hw1, hw, -, hh8, hh⟩ := hs.dims
  simp only [validDims, Config.maxW, Config.maxH, Bool.and_eq_true, decide_eq_true_eq]
  omega

/-- A DECODE of valid dimensions that need no rounding, BUF_LEN their packed length, completes with OK alone
(41_codec.md R84). -/
theorem exec_decode_exact {s : State} {w h : Nat} (force : Bool) (ha : s.argA.toInt = w) (hb : s.argB.toInt = h)
    (hh : h % 8 = 0) (hv : validDims w h = true) (hl : s.bufLen.toNat = packedLen w h)
    (hn : s.status.noResult = true) :
    ∃ t, exec (.decode force) s = .next t ∧ t.grid = s.unpackedGrid w h ∧ t.gridW = w ∧ t.gridH = h
      ∧ t.status = ⟨false, true, false, false, false, false, false, s.status.busyerr⟩ := by
  have hnorm : normH h = h := normH_of_mod_eq_zero (by omega)
  have hcases := exec_decode_cases s force
  simp only [ha, hb, hnorm, Int.toNat_natCast] at hcases
  rcases hcases with ⟨hv', -⟩ | ⟨-, hl', -⟩ | ⟨-, -, ht⟩
  · exact absurd (hv.symm.trans hv') nofun
  · exact absurd hl hl'
  · refine ⟨_, ht, rfl, rfl, rfl, (s.status.replaced_of_noResult hn _ _ _).trans ?_⟩
    simp [hl]

/-- The buffer an ENCODE leaves unpacks, at the grid's own dimensions, to the grid (41_codec.md R86). -/
theorem State.Inv.unpackedGrid_encoded {s t : State} (hs : s.Inv) (ht : exec .encode s = .next t) :
    t.unpackedGrid s.gridW s.gridH = s.grid := by
  obtain ⟨-, hw, hh8, -, hh⟩ := hs.dims
  apply Grid.eq_of_px
  intro r c
  by_cases hrc : r < s.gridH ∧ c < s.gridW
  · have hp : r / 8 < s.gridH / 8 := by omega
    have hb : r % 8 < 8 := Nat.mod_lt r (by decide)
    have hcell := t.px_unpackedGrid_page hw hh hp hrc.2 hb
    have hpresent : packedIndex s.gridW (r / 8) c < t.bufLen.toNat := by
      rw [exec_encode_bufLen ht hs.packedLen_le]
      exact packedIndex_lt _ _ _ _ hp hrc.2
    rw [if_pos hpresent, exec_encode_memRead_packed ht hs.packedLen_le hp hrc.2,
      s.getLsbD_packedByte _ _ _ hb, Nat.div_add_mod'] at hcell
    exact hcell
  · have hout : s.gridH ≤ r ∨ s.gridW ≤ c := by omega
    rw [t.px_unpackedGrid_outside hw hh hout]
    exact (hs.outside r c hout).symm

/-- A sequence goes on from the state its first instruction reaches. -/
theorem execAll_cons {i : Instr} {is : List Instr} {s t : State} (h : exec i s = .next t) :
    execAll (i :: is) s = execAll is t := by
  simp only [execAll, h]

/-- The three writes of a command with two operands, while BUSY = 0: they load the operands, issue the word, and keep
the buffer (40_host_bus.md R59, R64, R66). -/
theorem execAll_issue_with_operands (s : State) (a b w : Word) (hb : s.status.busy = false) :
    ∃ t, execAll [.wrArgA a, .wrArgB b, .wrCmd w] s = .next t ∧ t.argA = a ∧ t.argB = b
      ∧ t.status = s.status.issued ∧ t.buf = s.buf ∧ t.run = s.run ∧ t.bufLen = s.bufLen :=
  ⟨State.issue { s with argA := a, argB := b } w,
    (execAll_cons (exec_write_idle s (.wrArgA a) rfl hb)).trans <|
      (execAll_cons (exec_write_idle { s with argA := a } (.wrArgB b) rfl hb)).trans <|
      execAll_cons (exec_wrCmd_idle { s with argA := a, argB := b } w hb),
    State.issue_argA _ w, State.issue_argB _ w, rfl, State.issue_buf _ w, State.issue_run _ w,
    State.issue_bufLen _ w⟩

/-- Settles O41: the buffer unpacks to the grid by `State.Inv.unpackedGrid_encoded`, the writes between keep it, and the
DECODE ends as `exec_decode_exact` says. -/
theorem encodeThenDecodeRestoresTheGrid : Obligations.EncodeThenDecodeRestoresTheGrid := by
  intro s force hs _ hbe
  obtain ⟨-, hw, hh8, -, hh⟩ := hs.dims
  obtain ⟨t, ht, hst⟩ : ∃ t, exec .encode s = .next t ∧ t.status = s.status.succeeded :=
    ⟨_, exec_encode s, rfl⟩
  obtain ⟨t', hwrites, ha, hb, hst', hbuf, hrun, hlen⟩ := execAll_issue_with_operands t
    (BitVec.ofNat 32 s.gridW) (BitVec.ofNat 32 s.gridH) (if force then 0x12 else 0x2) (by rw [hst]; rfl)
  obtain ⟨u, hu, hgrid, huw, huh, hust⟩ := exec_decode_exact (s := t') (w := s.gridW) (h := s.gridH) force
    (by rw [ha, toInt_ofNat_dim hw]) (by rw [hb, toInt_ofNat_dim (by omega)]) hh8 hs.validDims_own
    (by rw [hlen, exec_encode_bufLen ht hs.packedLen_le]) (by rw [hst', Status.issued_noResult])
  refine ⟨t, t', u, ht, hwrites, hu, ?_, huw, huh, ?_⟩
  · rw [hgrid, State.unpackedGrid_congr t t' hbuf hrun hlen, hs.unpackedGrid_encoded ht]
  · rw [hust, hst', Status.issued_busyerr, hst, Status.succeeded_busyerr, hbe]
    rfl

/-! DECODE, then ENCODE (41_codec.md R87). -/

/-- The byte of each page and column of an unpacked grid is the buffer's where it is present, else 0. -/
theorem State.packedByte_of_unpacked (s t : State) {w h p c : Nat} (hg : t.grid = s.unpackedGrid w h)
    (hw : w ≤ 128) (hh : h ≤ 64) (hp : p < h / 8) (hc : c < w) :
    t.packedByte p c = if packedIndex w p c < s.bufLen.toNat then s.memRead (packedIndex w p c) else 0 := by
  apply BitVec.eq_of_getLsbD_eq
  intro b hb
  rw [t.getLsbD_packedByte p c b hb, State.pix, hg, s.px_unpackedGrid_page hw hh hp hc hb]
  split <;> simp

/-- The bytes an ENCODE leaves of an unpacked grid: the buffer's where they are present, else 0 (41_codec.md R87). -/
theorem exec_encode_memRead_of_unpacked {s t u : State} {w h : Nat} (hu : exec .encode t = .next u)
    (hg : t.grid = s.unpackedGrid w h) (htw : t.gridW = w) (hth : t.gridH = h) (hw : w ≤ 128) (hh : h ≤ 64)
    {a : Nat} (ha : a < packedLen w h) : u.memRead a = if a < s.bufLen.toNat then s.memRead a else 0 := by
  subst htw hth
  obtain ⟨p, c, hp, hc, rfl⟩ := exists_packedIndex _ _ a ha
  rw [exec_encode_memRead_packed hu (packedLen_le _ _ hw hh) hp hc, s.packedByte_of_unpacked t hg hw hh hp hc]

/-- Settles O42: `exec_decode_of_ok` gives the unpacked grid, which the issue of ENCODE keeps, and
`exec_encode_memRead_of_unpacked` its bytes. -/
theorem decodeThenEncodeReproducesTheBytes : Obligations.DecodeThenEncodeReproducesTheBytes := by
  intro s t ht hok hs
  obtain ⟨hg, hw, hh⟩ := exec_decode_of_ok ht hok hs
  obtain ⟨u, hu⟩ := exec_answers_next .encode (t.issue 0x1)
  have hcap := packedLen_le t.gridW t.gridH hw hh
  have hlen : u.bufLen.toNat = packedLen t.gridW t.gridH := by
    simpa using exec_encode_bufLen hu (by simpa using hcap)
  have hbytes : ∀ a, a < packedLen t.gridW t.gridH → u.memRead a = if a < s.bufLen.toNat then s.memRead a else 0 :=
    fun a => exec_encode_memRead_of_unpacked hu ((t.issue_grid _).trans hg) (t.issue_gridW _) (t.issue_gridH _) hw hh
  refine ⟨u, hu, hlen, fun a ha => ?_, fun a hla ha => ?_⟩
  · obtain ⟨hl, he⟩ := Nat.lt_min.mp ha
    rw [hbytes a he, if_pos hl]
  · rw [hbytes a ha, if_neg (Nat.not_lt.mpr hla)]

end Sys2Proof.Machine

/-! The dimension procedures and the grid commands (42_grid.md): NormH, Valid and CheckDims, then RESIZE, TOGGLE and
INVERT. -/
namespace Sys2Proof.Machine

/-! NormH, Valid and CheckDims (42_grid.md R88, R89, R91). -/

/-- A height that is no multiple of 8 is rounded down to one, and 0 clamped to 8 (42_grid.md R88). -/
theorem normH_of_mod_ne_zero {h : Int} (hh : h % 8 ≠ 0) :
    normH h = if 8 * Int.fdiv h 8 = 0 then 8 else 8 * Int.fdiv h 8 := by
  rw [Int.fdiv_eq_ediv_of_nonneg h (by decide)]
  exact if_neg hh

/-- Normalization changes exactly the heights that are no multiple of 8 (42_grid.md R88). -/
theorem normH_ne_iff (h : Int) : normH h ≠ h ↔ h % 8 ≠ 0 :=
  not_congr ⟨fun heq => heq ▸ normH_mod h, normH_of_mod_eq_zero⟩

/-- The heights below 8 and above 0 are clamped to 8 (42_grid.md R88). -/
theorem normH_of_lt_eight {h : Int} (h1 : 1 ≤ h) (h7 : h ≤ 7) : normH h = 8 := by
  rw [normH_of_mod_ne_zero (by omega), if_pos]
  rw [Int.fdiv_eq_ediv_of_nonneg h (by decide)]
  omega

/-- The floor of a 32-bit height to a multiple of 8 does not overflow (42_grid.md R88). -/
theorem eight_mul_fdiv_bounds {h : Int} (hlo : -2 ^ 31 ≤ h) (hhi : h < 2 ^ 31) :
    -2 ^ 31 ≤ 8 * Int.fdiv h 8 ∧ 8 * Int.fdiv h 8 ≤ 2 ^ 31 - 8 := by
  rw [Int.fdiv_eq_ediv_of_nonneg h (by decide)]
  omega

/-- Settles O43: a lemma for each clause, and the corner values by evaluation. -/
theorem normHRoundsDownAndClamps : Obligations.NormHRoundsDownAndClamps :=
  ⟨fun h => ⟨normH_of_mod_eq_zero, normH_of_mod_ne_zero, normH_mod h, normH_ne_iff h, normH_of_lt_eight,
    eight_mul_fdiv_bounds⟩, by decide⟩

/-- Valid is the bounds of the width and of the height (42_grid.md R89). -/
theorem validDims_iff (w h : Int) : validDims w h = true ↔ 1 ≤ w ∧ w ≤ 128 ∧ 1 ≤ h ∧ h ≤ 64 := by
  simp [validDims, and_assoc]

/-- The multiples of 8 that pass the height's bounds (42_grid.md R89). -/
theorem mem_validHeights_iff {h : Int} (hm : h % 8 = 0) :
    h ∈ [8, 16, 24, 32, 40, 48, 56, 64] ↔ 1 ≤ h ∧ h ≤ 64 := by
  simp only [List.mem_cons, List.not_mem_nil, or_false]
  omega

/-- Settles O44: `validDims_iff`, and a normalized height is a multiple of 8. -/
theorem validDimensionsAreBounded : Obligations.ValidDimensionsAreBounded :=
  ⟨validDims_iff, fun w hreq => by rw [validDims_iff, mem_validHeights_iff (normH_mod hreq)]⟩

/-- Settles O45: the two answers of `State.checkDims_cases`. -/
theorem checkDimsReportsThenValidates : Obligations.CheckDimsReportsThenValidates := by
  intro s wreq hreq hn hadj
  rcases s.checkDims_cases wreq hreq with ⟨hv, hc⟩ | ⟨hv, hc⟩
  · rw [hc, if_pos hv]
  · rw [hc, if_neg (ne_true_of_eq_false hv)]

/-! RESIZE (42_grid.md R90). -/

/-- The STATUS of a RESIZE that made its change, with bits 6:1 clear on entry. -/
theorem Status.resized_of_noResult (st : Status) (hn : st.noResult = true) (hadj : Bool) :
    { st with hadj := st.hadj || hadj, ok := true, busy := false : Status } =
      ⟨false, true, false, false, false, hadj, false, st.busyerr⟩ := by
  simpa only [Bool.or_false] using st.replaced_of_noResult hn hadj false false

/-- Settles O37: the two ends of `exec_resize_cases`, each with bits 6:1 clear on entry; the new grid's cells by
`State.px_resizedGrid`, at dimensions that Valid bounds. -/
theorem resizeKeepsTheOverlap : Obligations.ResizeKeepsTheOverlap := by
  intro s _ hn hnorm adjusted
  rcases exec_resize_cases s with ⟨hv, ht⟩ | ⟨hv, ht⟩
  · refine ⟨_, ht, rfl, rfl, ?_⟩
    rw [if_pos hv]
    exact ⟨s.status.valerr_of_noResult hn _, rfl, rfl, rfl⟩
  · obtain ⟨-, hw, -, -, -, hh, -⟩ := validDims_bounds s.argA.toInt s.argB.toInt hv
    refine ⟨_, ht, rfl, rfl, ?_⟩
    rw [if_neg (ne_false_of_eq_true hv)]
    exact ⟨s.status.resized_of_noResult hn _, rfl, rfl, fun r c => s.px_resizedGrid _ _ r c hw hh⟩

/-! TOGGLE (42_grid.md R92). -/

/-- Settles O38: the two ends of `exec_toggle_cases`; the flipped cell by `State.px_toggledGrid`, as the grid's
dimensions fit the storage. -/
theorem toggleFlipsOnePixel : Obligations.ToggleFlipsOnePixel := by
  intro s hs r0 c0
  obtain ⟨-, hw, -, -, hh⟩ := hs.dims
  rcases exec_toggle_cases s with ⟨hr0, hrH, hc0, hcW, ht⟩ | ⟨hout, ht⟩
  · refine ⟨_, ht, rfl, fun _ _ _ _ r c => ?_, fun hout => ?_⟩
    · exact s.px_toggledGrid r0.toNat c0.toNat r c (by omega) (by omega)
    · omega
  · exact ⟨_, ht, rfl, fun hr0 hrH hc0 hcW => absurd ⟨hr0, hrH, hc0, hcW⟩ hout, fun _ => rfl⟩

/-! INVERT (42_grid.md R93, R94). -/

/-- A cell of the inverted grid is flipped where it lies in the storage and in the grid, and kept elsewhere. -/
theorem State.px_invertedGrid_eq (s : State) (r c : Nat) : Grid.px s.invertedGrid r c =
    if (r < 64 ∧ c < 128) ∧ r < s.gridH ∧ c < s.gridW then !(s.pix r c) else s.pix r c := by
  by_cases hin : r < 64 ∧ c < 128
  · simp [s.px_invertedGrid, hin]
  · have hout : 64 ≤ r ∨ 128 ≤ c := by omega
    rw [if_neg fun h => hin h.1, Grid.px_outside _ r c hout, State.pix, Grid.px_outside _ r c hout]

/-- Settles O39: `State.px_invertedGrid_eq`, with the invariant's bounds on the dimensions and its cells outside them. -/
theorem invertFlipsEveryPixel : Obligations.InvertFlipsEveryPixel := by
  intro s hs
  obtain ⟨-, hw, -, -, hh⟩ := hs.dims
  refine ⟨_, exec_invert s, rfl, fun r c hr hc => ?_, fun r c hout => ?_⟩
  · exact (s.px_invertedGrid_eq r c).trans (if_pos ⟨⟨by omega, by omega⟩, hr, hc⟩)
  · exact ((s.px_invertedGrid_eq r c).trans (if_neg (by omega))).trans (hs.outside r c hout)

/-- Inverting the inverted grid at the same dimensions gives the grid back (42_grid.md R94). -/
theorem State.invertedGrid_invertedGrid (s t : State) (hg : t.grid = s.invertedGrid) (hw : t.gridW = s.gridW)
    (hh : t.gridH = s.gridH) : t.invertedGrid = s.grid := by
  apply Grid.eq_of_px
  intro r c
  rw [t.px_invertedGrid_eq, hw, hh, State.pix, hg, s.px_invertedGrid_eq]
  split
  · exact Bool.not_not _
  · rfl

/-- The STATUS word of a command that ends with OK, with bits 6:1 and BUSYERR clear on entry. -/
theorem Status.word_succeeded (st : Status) (hn : st.noResult = true) (hb : st.busyerr = false) :
    st.succeeded.word = 0x02 := by
  obtain ⟨-, hval, hlen, hshort, hadj, hill⟩ := st.noResult_iff.mp hn
  have hst : st.succeeded = ⟨false, true, false, false, false, false, false, false⟩ := by
    simp [Status.succeeded, *]
  rw [hst]
  rfl

/-- Settles O40: `State.invertedGrid_invertedGrid`, as the issue between the two keeps the grid and its dimensions and
leaves bits 6:1 and BUSYERR clear. -/
theorem invertTwiceRestoresTheGrid : Obligations.InvertTwiceRestoresTheGrid := by
  intro s hn hb
  exact ⟨_, _, exec_invert s, s.status.word_succeeded hn hb, exec_invert _,
    Status.word_succeeded _ (Status.issued_noResult _) hb,
    s.invertedGrid_invertedGrid _ (State.issue_grid _ 0x5) (State.issue_gridW _ 0x5) (State.issue_gridH _ 0x5),
    State.issue_gridW _ 0x5, State.issue_gridH _ 0x5⟩

end Sys2Proof.Machine

/-! A completion that aborts (60_exceptions.md R103). -/
namespace Sys2Proof.Machine

/-- Of the commands only RESIZE and DECODE end with OK = 0, and they then change STATUS and ADJ_H alone: the rejected
dimensions, and the refused length of a DECODE (60_exceptions.md R103). -/
theorem exec_command_aborts {s t : State} {i : Instr} (hi : isCommand i = true) (ht : exec i s = .next t)
    (hok : t.status.ok = false) :
    (i = .resize ∨ ∃ f, i = .decode f) ∧ t = { s with status := t.status, adjH := t.adjH } := by
  cases i <;> simp [isCommand] at hi
  case encode =>
    obtain rfl := Host.Outcome.next.inj ((exec_encode s).symm.trans ht)
    exact nomatch hok
  case decode force =>
    rcases exec_decode_cases s force with ⟨-, e⟩ | ⟨-, -, -, e⟩ | ⟨-, -, e⟩ <;>
      obtain rfl := Host.Outcome.next.inj (e.symm.trans ht)
    · exact ⟨.inr ⟨force, rfl⟩, rfl⟩
    · exact ⟨.inr ⟨force, rfl⟩, rfl⟩
    · exact nomatch hok
  case resize =>
    rcases exec_resize_cases s with ⟨-, e⟩ | ⟨-, e⟩ <;>
      obtain rfl := Host.Outcome.next.inj (e.symm.trans ht)
    · exact ⟨.inl rfl, rfl⟩
    · exact nomatch hok
  case toggle =>
    rcases exec_toggle_cases s with ⟨-, -, -, -, e⟩ | ⟨-, e⟩ <;>
      obtain rfl := Host.Outcome.next.inj (e.symm.trans ht) <;>
      exact nomatch hok
  case invert =>
    obtain rfl := Host.Outcome.next.inj ((exec_invert s).symm.trans ht)
    exact nomatch hok

/-- Settles O48: a legal word's completion by `exec_command_aborts`, an illegal word's by the raise of ILLCMD, which
keeps ADJ_H. -/
theorem abortLeavesTheStateUnchanged : Obligations.AbortLeavesTheStateUnchanged := by
  intro s t _ hc ht hok
  rw [step_of_blockCompletes s hc, blockStep, State.sampled_pend] at ht
  cases hd : decodeCmd s.pend with
  | ok i =>
    rw [hd] at ht
    obtain ⟨hi, heq⟩ := exec_command_aborts (decodeCmd_isCommand _ _ hd) ht hok
    refine ⟨heq, fun _ => ?_⟩
    rcases hi with rfl | ⟨f, rfl⟩
    · exact .inl rfl
    · exact .inr ⟨f, rfl⟩
  | error e =>
    rw [hd] at ht
    obtain rfl := Host.Outcome.next.inj ht
    exact ⟨rfl, fun hne => absurd rfl hne⟩

end Sys2Proof.Machine

/-! Encoding and decoding agree on every instruction (30_encoding.md R48 to R50, 40_host_bus.md R82). -/
namespace Sys2Proof.Machine

/-- Decoding gives back every encoded instruction. -/
theorem decode_encode (i : Instr) : decode (encode i) = .ok i := by
  cases i with
  | decode force => exact (Laws.RoundTrip.decode force).2
  | _ => rfl

/-- A command word that decodes is one of the six of 30_encoding.md R50, and each is the encoding of its command. -/
theorem encode_of_decodeCmd {w : Word} {i : Instr} (h : decodeCmd w = .ok i) : encode i = .cmd w := by
  have hw := (exactlySixLegalWords.1 w).mp ⟨i, h⟩
  simp only [List.mem_cons, List.not_mem_nil, or_false] at hw
  rcases hw with rfl | rfl | rfl | rfl | rfl | rfl <;> cases h <;> rfl

/-- Each entry of the table of 40_host_bus.md R82 is the encoding of its transaction, a read with DATA 0, and is a write
or a read as bit 8 of its selector says. -/
theorem encode_admittedTransactions (data : Word) : ∀ p ∈ admittedTransactions data,
    encode p.2 = .bus p.1 (if selIsWrite p.1 then data else 0)
      ∧ isBusWrite p.2 = selIsWrite p.1 ∧ isBusRead p.2 = !selIsWrite p.1 := by
  intro p hp
  unfold admittedTransactions at hp
  fin_cases hp <;> simp [encode, selector, BusReg.offset, selIsWrite, isBusWrite, isBusRead]

/-- Settles O1: `decode_encode` one way; the other way the six command words, and the table of the 22 selectors. -/
theorem decodeAndEncodeAgree : Obligations.DecodeAndEncodeAgree :=
  ⟨fun i _ => decode_encode i,
    fun w _ h => ⟨encode_of_decodeCmd h, decodeCmd_isCommand w _ h⟩,
    fun sel data i h => encode_admittedTransactions data (sel, i) ((decodeBus_ok_iff sel data i).mp h)⟩

/-- Settles O4: each written-out word by evaluation of the decoder. -/
theorem writtenOutWordsDecode : Obligations.WrittenOutWordsDecode := by
  unfold Obligations.WrittenOutWordsDecode
  decide

/-- Settles O58: the pair of a WR or RD line is its definition, and the rule's examples evaluate. -/
theorem hostLinesEncodeAsPairs : Obligations.HostLinesEncodeAsPairs :=
  ⟨fun _ _ => rfl, fun r _ => ⟨0, by cases r <;> rfl⟩, rfl, rfl, 0, rfl⟩

/-- Settles O59: each text by evaluation of the formatter and of the scan. -/
theorem hostTextVectors : Obligations.HostTextVectors := by
  unfold Obligations.HostTextVectors
  decide

end Sys2Proof.Machine

/-! What a bus transaction and a command can do, each said once, and the frames that follow (10_state.md, 40_host_bus.md). -/
namespace Sys2Proof.Machine

/-! Bus transactions. -/

/-- The six reads that are unspecified while BUSY = 1 are reads. -/
theorem isBusRead_of_isGuardedRead {i : Instr} (hg : isGuardedRead i = true) : isBusRead i = true := by
  cases i <;> simp [isGuardedRead] at hg <;> rfl

/-- No transaction both reads and writes. -/
theorem isBusWrite_of_isBusRead {i : Instr} (hr : isBusRead i = true) : isBusWrite i = false := by
  cases i <;> simp [isBusRead] at hr <;> rfl

/-- A guarded read while BUSY = 1 answers a draw and changes nothing else (40_host_bus.md R58). -/
theorem exec_guardedRead_busy (s : State) (i : Instr) (hb : s.status.busy = true) (hg : isGuardedRead i = true) :
    exec i s = .next s.answerDraw := by
  rw [exec_read s i (isBusRead_of_isGuardedRead hg), hg, hb]
  rfl

/-- RD BUF_DATA while BUSY = 0 answers the byte and advances the pointer (40_host_bus.md R76). -/
theorem exec_rdBufData_idle (s : State) (hb : s.status.busy = false) :
    exec .rdBufData s = .next (s.answer (s.regValue .bufData)).advancePtr := by
  rw [exec_read s .rdBufData rfl, hb]
  rfl

/-- What a bus transaction can change, and by which transaction each change comes (10_state.md section 2, 40_host_bus.md):
ARG_A, ARG_B, PIX_SEL, BUF_LEN, BUF_PTR, BUF, STATUS and the command's issue each by its owner, while BUSY = 0. -/
structure BusEffect (i : Instr) (s t : State) : Prop where
  frame : t = { s with
    status := t.status, argA := t.argA, argB := t.argB, bufLen := t.bufLen, bufPtr := t.bufPtr, pixSel := t.pixSel
    buf := t.buf, pend := t.pend, rdata := t.rdata, draws := t.draws, delay := t.delay, latencies := t.latencies }
  argA : t.argA = s.argA ∨ s.status.busy = false ∧ i = .wrArgA t.argA
  argB : t.argB = s.argB ∨ s.status.busy = false ∧ i = .wrArgB t.argB
  pixSel : t.pixSel = s.pixSel ∨ s.status.busy = false ∧ ∃ d, i = .wrPixSel d
  bufLen : t.bufLen = s.bufLen ∨ s.status.busy = false ∧ ∃ d, i = .wrBufLen d ∧ t.bufLen = d.setWidth 16
  bufPtr : t.bufPtr = s.bufPtr
    ∨ s.status.busy = false ∧ (i = .rdBufData ∨ (∃ d, i = .wrBufData d) ∨ ∃ d, i = .wrBufPtr d)
  buf : t.buf = s.buf
    ∨ s.status.busy = false ∧ ∃ d, i = .wrBufData d ∧ t.buf = (s.memWrite s.bufPtr.toNat (d.setWidth 8)).buf
  issue : (t.pend = s.pend ∧ t.delay = s.delay ∧ t.latencies = s.latencies
      ∧ t.status = { s.status with busyerr := t.status.busyerr })
    ∨ s.status.busy = false ∧ ∃ w, i = .wrCmd w ∧ t.status = s.status.issued
  busyerr : t.status.busyerr = s.status.busyerr
    ∨ (s.status.busy = true ∧ isBusWrite i = true ∧ t.status.busyerr = true)
    ∨ s.status.busy = false ∧ ∃ d, i = .wrStatus d ∧ d.getLsbD 7 = true ∧ t.status.busyerr = false
  draws : t.draws = s.draws
    ∨ (s.status.busy = true ∧ isGuardedRead i = true ∧ t.draws = s.draws + 1)
    ∨ s.status.busy = false ∧ ∃ w, i = .wrCmd w
  rdata : isBusWrite i = true → t.rdata = s.rdata

/-- A read that draws. -/
theorem BusEffect.answerDraw {i : Instr} {s : State} (hr : isBusRead i = true) (hg : isGuardedRead i = true)
    (hb : s.status.busy = true) : BusEffect i s s.answerDraw where
  frame := rfl
  argA := .inl rfl
  argB := .inl rfl
  pixSel := .inl rfl
  bufLen := .inl rfl
  bufPtr := .inl rfl
  buf := .inl rfl
  issue := .inl ⟨rfl, rfl, rfl, rfl⟩
  busyerr := .inl rfl
  draws := .inr (.inl ⟨hb, hg, rfl⟩)
  rdata := fun hw => nomatch hw.symm.trans (isBusWrite_of_isBusRead hr)

/-- A read that answers a register's value, with the pointer moved by RD BUF_DATA while BUSY = 0 alone. -/
theorem BusEffect.answer {i : Instr} {s : State} (hr : isBusRead i = true) (v : Word) (p : Half)
    (hp : p = s.bufPtr ∨ s.status.busy = false ∧ i = .rdBufData) :
    BusEffect i s { s.answer v with bufPtr := p } where
  frame := rfl
  argA := .inl rfl
  argB := .inl rfl
  pixSel := .inl rfl
  bufLen := .inl rfl
  bufPtr := hp.imp_right fun ⟨hb, hi⟩ => ⟨hb, .inl hi⟩
  buf := .inl rfl
  issue := .inl ⟨rfl, rfl, rfl, rfl⟩
  busyerr := .inl rfl
  draws := .inl rfl
  rdata := fun hw => nomatch hw.symm.trans (isBusWrite_of_isBusRead hr)

/-- A write dropped while BUSY = 1. -/
theorem BusEffect.dropped {i : Instr} {s : State} (hw : isBusWrite i = true) (hb : s.status.busy = true) :
    BusEffect i s { s with status := { s.status with busyerr := true } } where
  frame := rfl
  argA := .inl rfl
  argB := .inl rfl
  pixSel := .inl rfl
  bufLen := .inl rfl
  bufPtr := .inl rfl
  buf := .inl rfl
  issue := .inl ⟨rfl, rfl, rfl, rfl⟩
  busyerr := .inr (.inl ⟨hb, hw, rfl⟩)
  draws := .inl rfl
  rdata := fun _ => rfl

/-- A write while BUSY = 0 changes what it owns: each field by the writes' effects. -/
theorem BusEffect.written (i : Instr) {s : State} (hb : s.status.busy = false) :
    BusEffect i s (s.writeEffect i) where
  frame := by
    cases i with
    | wrCmd d => rw [State.writeEffect, State.issue, s.startDelay_eq]
    | wrBufData d => rw [State.writeEffect, s.memWrite_eq]; rfl
    | _ => rfl
  argA := by cases i <;> simp [State.writeEffect, hb]
  argB := by cases i <;> simp [State.writeEffect, hb]
  pixSel := by cases i <;> simp [State.writeEffect, hb]
  bufLen := by cases i <;> simp [State.writeEffect, hb]
  bufPtr := by cases i <;> simp [State.writeEffect, hb]
  buf := by cases i <;> simp [State.writeEffect, hb]
  issue := by
    cases i with
    | wrCmd d => exact .inr ⟨hb, d, rfl, rfl⟩
    | wrStatus d => exact .inl ⟨rfl, rfl, rfl, by rw [State.writeEffect, Status.hostWritten_eq]⟩
    | wrBufData d => rw [State.writeEffect, s.memWrite_eq]; exact .inl ⟨rfl, rfl, rfl, rfl⟩
    | _ => exact .inl ⟨rfl, rfl, rfl, rfl⟩
  busyerr := by
    cases i with
    | wrStatus d =>
      cases hd : d.getLsbD 7
      · exact .inl (by rw [State.writeEffect, Status.hostWritten, hd]; rfl)
      · exact .inr (.inr ⟨hb, d, rfl, hd, by rw [State.writeEffect, Status.hostWritten, hd]; rfl⟩)
    | wrBufData d => exact .inl (by simp [State.writeEffect])
    | _ => exact .inl rfl
  draws := by cases i <;> simp [State.writeEffect, hb]
  rdata := by cases i <;> simp [State.writeEffect]

/-- Every bus transaction does what `BusEffect` says. -/
theorem exec_busEffect {i : Instr} {s t : State} (hi : isBusRead i = true ∨ isBusWrite i = true)
    (ht : exec i s = .next t) : BusEffect i s t := by
  rcases hi with hr | hw
  · rw [exec_read s i hr] at ht
    obtain rfl := Host.Outcome.next.inj ht
    split
    · next hg =>
      obtain ⟨hg, hb⟩ := Bool.and_eq_true_iff.mp hg
      exact .answerDraw hr hg hb
    · split
      · next hg hd =>
        subst hd
        exact .answer hr _ _ (.inr ⟨by simpa [isGuardedRead] using hg, rfl⟩)
      · exact .answer hr (s.regValue (readReg i)) s.bufPtr (.inl rfl)
  · cases hb : s.status.busy
    · obtain rfl := Host.Outcome.next.inj ((exec_write_idle s i hw hb).symm.trans ht)
      exact .written i hb
    · obtain rfl := Host.Outcome.next.inj ((exec_write_busy s i hw hb).symm.trans ht)
      exact .dropped hw hb

section
variable {i : Instr} {s t : State} (h : BusEffect i s t)
include h

/-! What no transaction changes. -/

theorem BusEffect.grid_eq : t.grid = s.grid := by rw [h.frame]
theorem BusEffect.gridW_eq : t.gridW = s.gridW := by rw [h.frame]
theorem BusEffect.gridH_eq : t.gridH = s.gridH := by rw [h.frame]
theorem BusEffect.adjH_eq : t.adjH = s.adjH := by rw [h.frame]
theorem BusEffect.run_eq : t.run = s.run := by rw [h.frame]
theorem BusEffect.resets_eq : t.resets = s.resets := by rw [h.frame]
theorem BusEffect.prog_eq : t.prog = s.prog := by rw [h.frame]
theorem BusEffect.pos_eq : t.pos = s.pos := by rw [h.frame]
theorem BusEffect.vars_eq : t.vars = s.vars := by rw [h.frame]
theorem BusEffect.session_eq : t.session = s.session := by rw [h.frame]

/-- A byte changes by WR BUF_DATA alone, at BUF_PTR, while BUSY = 0. -/
theorem BusEffect.memRead (a : Nat) : t.memRead a = s.memRead a
    ∨ s.status.busy = false ∧ a = s.bufPtr.toNat ∧ ∃ d, i = .wrBufData d := by
  rcases h.buf with hbuf | ⟨hb, d, hi, hbuf⟩
  · exact .inl (s.memRead_congr t hbuf h.run_eq a)
  · by_cases ha : a = s.bufPtr.toNat
    · exact .inr ⟨hb, ha, d, hi⟩
    · refine .inl (((s.memWrite s.bufPtr.toNat (d.setWidth 8)).memRead_congr t hbuf ?_ a).trans ?_)
      · rw [h.run_eq, State.memWrite_run]
      · exact s.memRead_memWrite_other _ _ _ ha

/-- STATUS changes but for BUSYERR only by the issue of a command. -/
theorem BusEffect.status : t.status = { s.status with busyerr := t.status.busyerr }
    ∨ s.status.busy = false ∧ ∃ w, i = .wrCmd w ∧ t.status = s.status.issued :=
  h.issue.imp_left fun ⟨_, _, _, hst⟩ => hst

end

/-- A change that needs BUSY = 0 does not come while BUSY = 1. -/
theorem resolve_of_busy {p q : Prop} {st : Status} (h : p ∨ st.busy = false ∧ q) (hb : st.busy = true) : p :=
  h.resolve_right fun ⟨hidle, _⟩ => nomatch hb.symm.trans hidle

/-- Settles O16: a dropped write. -/
theorem busyWritesOnlySetBusyerr : Obligations.BusyWritesOnlySetBusyerr :=
  fun s i hb hw => exec_write_busy s i hw hb

/-- Settles O28: a guarded read's draw. -/
theorem busyReadsAreFreeDraws : Obligations.BusyReadsAreFreeDraws :=
  fun s i hb hg => ⟨_, exec_guardedRead_busy s i hb hg⟩

/-- A byte read as a word is its value. -/
theorem toNat_zext32_byte (v : Byte) : (zext32 v).toNat = v.toNat :=
  BitVec.toNat_setWidth_of_le (by decide)

/-- Settles O26: the byte by `State.memRead`, 0 from 1024 on; the draw while BUSY = 1. -/
theorem rdBufDataFetchesOneByte : Obligations.RdBufDataFetchesOneByte := by
  refine fun s => ⟨fun hb => ⟨_, _, exec_rdBufData_idle s hb, ?_, fun _ => toNat_zext32_byte _, fun hp => ?_⟩,
    fun hb => ⟨_, exec_guardedRead_busy s .rdBufData hb rfl⟩⟩
  · exact BitVec.toNat_add s.bufPtr 1
  · rw [State.regValue, s.memRead_high _ hp]
    rfl

/-- A read changes the answer, the draw counter and, by RD BUF_DATA while BUSY = 0, BUF_PTR. -/
theorem exec_read_frame {i : Instr} {s t : State} (hr : isBusRead i = true) (ht : exec i s = .next t) :
    t = { s with rdata := t.rdata, draws := t.draws, bufPtr := t.bufPtr } := by
  rw [exec_read s i hr] at ht
  obtain rfl := Host.Outcome.next.inj ht
  split
  · rfl
  · split <;> rfl

/-- Settles O29: `exec_read_frame`, and BUF_PTR moved by its owners alone. -/
theorem readsChangeNothingButTheAnswer : Obligations.ReadsChangeNothingButTheAnswer := by
  intro s t i hr ht
  have heff := exec_busEffect (.inl hr) ht
  have hframe := exec_read_frame hr ht
  refine ⟨fun hkeep => ?_, fun _ => hframe,
    s.memRead_congr t (by rw [hframe]) heff.run_eq⟩
  have hptr : t.bufPtr = s.bufPtr := by
    rcases heff.bufPtr with hp | ⟨hb, rfl | ⟨d, rfl⟩ | ⟨d, rfl⟩⟩
    · exact hp
    · simp [hb] at hkeep
    · exact nomatch hr
    · exact nomatch hr
  rw [hptr] at hframe
  exact hframe

/-- Settles O30: each field of `BusEffect`, with its owner excluded. -/
theorem writesFrame : Obligations.WritesFrame := by
  intro s t i hw ht
  have heff := exec_busEffect (.inr hw) ht
  refine ⟨heff.grid_eq, heff.gridW_eq, heff.gridH_eq, heff.adjH_eq, heff.rdata hw, heff.run_eq, heff.resets_eq,
    heff.prog_eq, heff.pos_eq, heff.vars_eq, heff.session_eq, fun hne => ?_, fun hne => ?_, fun hne => ?_,
    fun hne => ?_, fun hne hne' => ?_, fun hne => ?_, fun hne => ⟨?_, fun a => ?_⟩, fun a ha => ?_⟩
  · obtain ⟨hpend, hdelay, hlat, hst⟩ := heff.issue.resolve_right fun ⟨_, d, hi, _⟩ => hne d hi
    refine ⟨hpend, hdelay, hlat, ?_, hst⟩
    rcases heff.draws with hd | ⟨_, hg, _⟩ | ⟨_, d, hi⟩
    · exact hd
    · exact nomatch hw.symm.trans (isBusWrite_of_isBusRead (isBusRead_of_isGuardedRead hg))
    · exact absurd hi (hne d)
  · exact heff.argA.resolve_right fun ⟨_, hi⟩ => hne _ hi
  · exact heff.argB.resolve_right fun ⟨_, hi⟩ => hne _ hi
  · exact heff.bufLen.resolve_right fun ⟨_, d, hi, _⟩ => hne d hi
  · rcases heff.bufPtr with hp | ⟨_, rfl | ⟨d, hi⟩ | ⟨d, hi⟩⟩
    · exact hp
    · exact nomatch hw
    · exact absurd hi (hne' d)
    · exact absurd hi (hne d)
  · exact heff.pixSel.resolve_right fun ⟨_, d, hi⟩ => hne d hi
  · exact heff.buf.resolve_right fun ⟨_, d, hi, _⟩ => hne d hi
  · exact (heff.memRead a).resolve_right fun ⟨_, _, d, hi⟩ => hne d hi
  · exact (heff.memRead a).resolve_right fun ⟨_, ha', _⟩ => ha ha'

/-- Settles O32: each field's owner acts while BUSY = 0 alone. -/
theorem busyWindowKeepsCommandInputs : Obligations.BusyWindowKeepsCommandInputs := by
  intro s t i hb hi ht
  have heff := exec_busEffect hi ht
  obtain ⟨hpend, -, -, hst⟩ := resolve_of_busy heff.issue hb
  exact ⟨hpend, resolve_of_busy heff.argA hb, resolve_of_busy heff.argB hb, resolve_of_busy heff.bufLen hb,
    resolve_of_busy heff.bufPtr hb, heff.gridW_eq, heff.gridH_eq, heff.grid_eq, heff.adjH_eq,
    resolve_of_busy heff.buf hb, heff.run_eq, hst⟩

/-! Commands. -/

/-- What a command can change, and which command each change needs (10_state.md sections 2, 4 and 5). -/
structure CommandEffect (i : Instr) (s t : State) : Prop where
  frame : t = { s with
    status := t.status, adjH := t.adjH, grid := t.grid, gridW := t.gridW, gridH := t.gridH
    buf := t.buf, bufLen := t.bufLen, bufPtr := t.bufPtr }
  busy : t.status.busy = false
  busyerr : t.status.busyerr = s.status.busyerr
  buffer : i = .encode ∨ t.buf = s.buf ∧ t.bufLen = s.bufLen ∧ t.bufPtr = s.bufPtr
  grid : i ≠ .encode ∨ t.grid = s.grid
  dims : (t.status.ok = true ∧ (i = .resize ∨ ∃ f, i = .decode f)) ∨ t.gridW = s.gridW ∧ t.gridH = s.gridH
  adjH : (i = .resize ∨ ∃ f, i = .decode f) ∨ t.adjH = s.adjH

/-- Every command does what `CommandEffect` says: each of its ends. -/
theorem exec_commandEffect {i : Instr} {s t : State} (hi : isCommand i = true) (ht : exec i s = .next t) :
    CommandEffect i s t := by
  cases i <;> simp [isCommand] at hi
  case encode =>
    obtain rfl := Host.Outcome.next.inj ((exec_encode s).symm.trans ht)
    exact ⟨rfl, rfl, rfl, .inl rfl, .inr rfl, .inr ⟨rfl, rfl⟩, .inr rfl⟩
  case decode force =>
    rcases exec_decode_cases s force with ⟨-, e⟩ | ⟨-, -, -, e⟩ | ⟨-, -, e⟩ <;>
      obtain rfl := Host.Outcome.next.inj (e.symm.trans ht)
    · exact ⟨rfl, rfl, rfl, .inr ⟨rfl, rfl, rfl⟩, .inl nofun, .inr ⟨rfl, rfl⟩, .inl (.inr ⟨force, rfl⟩)⟩
    · exact ⟨rfl, rfl, rfl, .inr ⟨rfl, rfl, rfl⟩, .inl nofun, .inr ⟨rfl, rfl⟩, .inl (.inr ⟨force, rfl⟩)⟩
    · exact ⟨rfl, rfl, rfl, .inr ⟨rfl, rfl, rfl⟩, .inl nofun, .inl ⟨rfl, .inr ⟨force, rfl⟩⟩,
        .inl (.inr ⟨force, rfl⟩)⟩
  case resize =>
    rcases exec_resize_cases s with ⟨-, e⟩ | ⟨-, e⟩ <;>
      obtain rfl := Host.Outcome.next.inj (e.symm.trans ht)
    · exact ⟨rfl, rfl, rfl, .inr ⟨rfl, rfl, rfl⟩, .inl nofun, .inr ⟨rfl, rfl⟩, .inl (.inl rfl)⟩
    · exact ⟨rfl, rfl, rfl, .inr ⟨rfl, rfl, rfl⟩, .inl nofun, .inl ⟨rfl, .inl rfl⟩, .inl (.inl rfl)⟩
  case toggle =>
    rcases exec_toggle_cases s with ⟨-, -, -, -, e⟩ | ⟨-, e⟩ <;>
      obtain rfl := Host.Outcome.next.inj (e.symm.trans ht) <;>
      exact ⟨rfl, rfl, rfl, .inr ⟨rfl, rfl, rfl⟩, .inl nofun, .inr ⟨rfl, rfl⟩, .inr rfl⟩
  case invert =>
    obtain rfl := Host.Outcome.next.inj ((exec_invert s).symm.trans ht)
    exact ⟨rfl, rfl, rfl, .inr ⟨rfl, rfl, rfl⟩, .inl nofun, .inr ⟨rfl, rfl⟩, .inr rfl⟩

section
variable {i : Instr} {s t : State} (h : CommandEffect i s t)
include h

/-! What no command changes. -/

theorem CommandEffect.argA_eq : t.argA = s.argA := by rw [h.frame]
theorem CommandEffect.argB_eq : t.argB = s.argB := by rw [h.frame]
theorem CommandEffect.pixSel_eq : t.pixSel = s.pixSel := by rw [h.frame]
theorem CommandEffect.pend_eq : t.pend = s.pend := by rw [h.frame]
theorem CommandEffect.rdata_eq : t.rdata = s.rdata := by rw [h.frame]
theorem CommandEffect.run_eq : t.run = s.run := by rw [h.frame]
theorem CommandEffect.draws_eq : t.draws = s.draws := by rw [h.frame]
theorem CommandEffect.delay_eq : t.delay = s.delay := by rw [h.frame]
theorem CommandEffect.latencies_eq : t.latencies = s.latencies := by rw [h.frame]
theorem CommandEffect.resets_eq : t.resets = s.resets := by rw [h.frame]
theorem CommandEffect.prog_eq : t.prog = s.prog := by rw [h.frame]
theorem CommandEffect.pos_eq : t.pos = s.pos := by rw [h.frame]
theorem CommandEffect.vars_eq : t.vars = s.vars := by rw [h.frame]
theorem CommandEffect.session_eq : t.session = s.session := by rw [h.frame]

end

/-- Settles O31: each field of `CommandEffect`; the bytes of ENCODE by `State.memRead_packed_other`. -/
theorem commandsFrame : Obligations.CommandsFrame := by
  intro s t i hi ht
  have heff := exec_commandEffect hi ht
  refine ⟨heff.argA_eq, heff.argB_eq, heff.pixSel_eq, heff.pend_eq, heff.busyerr, heff.rdata_eq, heff.run_eq,
    heff.draws_eq, heff.delay_eq, heff.latencies_eq, heff.resets_eq, heff.prog_eq, heff.pos_eq, heff.vars_eq,
    heff.session_eq, ?_, fun hne => ?_, ?_⟩
  · rintro rfl
    obtain ⟨hw, hh⟩ := heff.dims.resolve_left nofun
    refine ⟨heff.grid.resolve_left fun hne => hne rfl, hw, hh, heff.adjH.resolve_left nofun, fun a ha => ?_⟩
    rw [exec_encode_memRead s t ht]
    exact s.memRead_packed_other a ha
  · obtain ⟨hbuf, hlen, hptr⟩ := heff.buffer.resolve_left hne
    exact ⟨hbuf, hlen, hptr, s.memRead_congr t hbuf heff.run_eq⟩
  · intro hti
    have hno : ¬ (i = .resize ∨ ∃ f, i = .decode f) := by
      rcases hti with rfl | rfl <;> exact nofun
    obtain ⟨hw, hh⟩ := heff.dims.resolve_left fun h => hno h.2
    exact ⟨hw, hh, heff.adjH.resolve_left hno⟩

/-! The cause codes (60_exceptions.md R102). -/

/-- Settles O47: the eight bits of the word one by one, by `Status.getLsbD_word`; from bit 8 on it reads 0. -/
theorem conditionCodesAreStatusBits : Obligations.ConditionCodesAreStatusBits := by
  intro st e k
  simp only [Status.getLsbD_word]
  match k with
  | 0 | 1 | 2 | 3 | 4 | 5 | 6 | 7 => cases e <;> simp [Status.record, Condition.code]
  | k + 8 => cases e <;> simp [Condition.code]

end Sys2Proof.Machine

/-! The step without reset by who moves, and the invariant over every step. -/
namespace Sys2Proof.Machine

/-! Who moves. -/

/-- A host step counted toward T_CMD changes the delay alone. -/
theorem State.counted_eq (s : State) :
    s.counted = { s with delay := if s.status.busy then s.delay - 1 else s.delay } := by
  unfold State.counted
  split <;> rfl

/-- A host step is not the block's. -/
theorem State.hostMoves_not_blockCompletes {s : State} (hm : s.hostMoves = true) : s.blockCompletes = false := by
  have hb : s.sampled.blockMoves = false := by
    simp only [State.hostMoves, Bool.and_eq_true, Bool.not_eq_true'] at hm
    exact hm.2
  rw [State.blockCompletes, hb, Bool.and_false]

/-- A host step comes without reset. -/
theorem State.hostMoves_not_reset {s : State} (hm : s.hostMoves = true) : s.resetAsserted = false := by
  simp only [State.hostMoves, Bool.and_eq_true, Bool.not_eq_true'] at hm
  exact hm.1

/-- A host step that reaches a next state breaks no duty and is idle, a bus access, or a line that makes none. -/
theorem step_cases_of_hostMoves {s t : State} (hm : s.hostMoves = true) (ht : step s = .next t) :
    s.breaksDuty = false
      ∧ ((s.prog[s.pos]? = none ∧ t = s.sampled) ∨ HostAccess s t ∨ HostLineOnly s t) := by
  have hc := State.hostMoves_not_blockCompletes hm
  have hr := State.hostMoves_not_reset hm
  rcases step_cases s t ht with ⟨h, -⟩ | ⟨h, -⟩ | ⟨h, -⟩ | ⟨-, hd, h, ht⟩ | ⟨-, hd, h⟩ | ⟨-, hd, h⟩
  · exact nomatch h.symm.trans hr
  · exact nomatch h.symm.trans hc
  · exact nomatch h.symm.trans hc
  · exact ⟨hd, .inl ⟨h, ht⟩⟩
  · exact ⟨hd, .inr (.inl h)⟩
  · exact ⟨hd, .inr (.inr h)⟩

/-- Past its last line the host makes no access. -/
theorem State.nextAccess_eq_none {s : State} (hl : s.prog[s.pos]? = none) : s.nextAccess = none := by
  simp [State.nextAccess, hl]

/-- A performed access that reaches a next state is the host's step: the transaction at the counted state, then the
host's place, variables and notes. -/
theorem step_of_hostPerforms {s t : State} {i : Instr} (hp : s.hostPerforms i) (ht : step s = .next t) :
    ∃ u p vs n, (isBusRead i = true ∨ isBusWrite i = true) ∧ exec i s.sampled.counted = .next u
      ∧ (assocRising none u.vars = true → assocRising none vs = true)
      ∧ t = { u with
          pos := p, vars := vs, session := { s.session.note i s.status.busy u.rdata with loop := n } } := by
  obtain ⟨hm, hn⟩ := hp
  obtain ⟨-, ⟨hl, -⟩ | ⟨j, u, p, vs, n, hj, hk, hu, hvs, ht⟩ | ⟨hnone, -⟩⟩ := step_cases_of_hostMoves hm ht
  · exact nomatch hn.symm.trans (State.nextAccess_eq_none hl)
  · obtain rfl := Option.some.inj (hn.symm.trans hj)
    exact ⟨u, p, vs, n, hk, hu, hvs, ht⟩
  · exact nomatch hn.symm.trans hnone

/-- A step without reset is a legal command's completion, a bus access of the host, or a step that changes nothing of the
block but, at an illegal word, STATUS bits other than BUSYERR. -/
theorem step_effects {s t : State} (hr : s.resetAsserted = false) (ht : step s = .next t) :
    (∃ i, s.blockPerforms i ∧ CommandEffect i s.sampled t)
    ∨ (∃ i u p vs ss, s.hostPerforms i ∧ BusEffect i s.sampled.counted u
        ∧ t = { u with pos := p, vars := vs, session := ss })
    ∨ t.status.busyerr = s.status.busyerr ∧ t = { s with
        status := t.status, delay := t.delay, resets := t.resets, pos := t.pos, session := t.session } := by
  rcases step_cases s t ht with ⟨h, -⟩ | ⟨hc, i, hd, hi⟩ | ⟨-, -, rfl⟩ | ⟨-, -, -, rfl⟩
    | ⟨hm, -, i, u, p, vs, n, hn, hk, hu, -, rfl⟩ | ⟨-, -, -, p, ss, -, rfl⟩
  · exact nomatch h.symm.trans hr
  · exact .inl ⟨i, ⟨hc, hd⟩, exec_commandEffect (decodeCmd_isCommand _ _ hd) hi⟩
  · exact .inr (.inr ⟨rfl, rfl⟩)
  · exact .inr (.inr ⟨rfl, rfl⟩)
  · exact .inr (.inl ⟨i, u, p, vs, _, ⟨hm, hn⟩, exec_busEffect hk hu, rfl⟩)
  · rw [State.counted_eq]
    exact .inr (.inr ⟨rfl, rfl⟩)

/-! The invariant. -/

/-- The reset input's sample is no part of the invariant. -/
theorem State.Inv.sampled {s : State} (hs : s.Inv) : s.sampled.Inv := { hs with }

/-- Nor is the delay. -/
theorem State.Inv.counted {s : State} (hs : s.Inv) : s.counted.Inv := by
  rw [s.counted_eq]
  exact { hs with }

/-- Settles O14. -/
theorem invariantHoldsAtReset : Obligations.InvariantHoldsAtReset := State.reset_inv

/-- The reset event gives the reset state's values and keeps the host's variables. -/
theorem State.Inv.applyReset {s : State} (hs : s.Inv) : s.applyReset.Inv :=
  { State.reset_inv with vars := hs.vars, awaits := fun h => nomatch h }

/-- A completion that leaves the storage as the invariant wants it. -/
theorem State.Inv.completed {s t : State} (hs : s.Inv) (hbusy : t.status.busy = false)
    (hres : t.status.completedResult = true) (hvars : t.vars = s.vars)
    (hw : 1 ≤ t.gridW ∧ t.gridW ≤ 128) (hh : t.gridH % 8 = 0 ∧ 8 ≤ t.gridH ∧ t.gridH ≤ 64)
    (hout : ∀ r c, t.gridH ≤ r ∨ t.gridW ≤ c → t.pix r c = false) (hbuf : Mem.wf t.buf = true)
    (hadj : t.adjH.toNat % 8 = 0) : t.Inv where
  width := hw
  height := hh
  outside := hout
  bufWf := hbuf
  adjusted := hadj
  pending := fun h => nomatch h.symm.trans hbusy
  idle := fun _ => .inr hres
  vars := hvars ▸ hs.vars
  awaits := fun h => nomatch h.symm.trans hbusy

/-- A grid built at accepted dimensions is off outside them: RESIZE keeps the top-left overlap (42_grid.md R90). -/
theorem State.px_resizedGrid_outside (s : State) {w h r c : Nat} (hw : w ≤ 128) (hh : h ≤ 64)
    (hrc : h ≤ r ∨ w ≤ c) : Grid.px (s.resizedGrid w h) r c = false := by
  rw [s.px_resizedGrid w h r c hw hh, if_neg (by omega)]

/-- TOGGLE of a cell inside the grid leaves the cells outside it off. -/
theorem State.Inv.px_toggledGrid_outside {s : State} (hs : s.Inv) {r0 c0 r c : Nat} (hr0 : r0 < s.gridH)
    (hc0 : c0 < s.gridW) (hrc : s.gridH ≤ r ∨ s.gridW ≤ c) : Grid.px (s.toggledGrid r0 c0) r c = false := by
  obtain ⟨-, hw, -, -, hh⟩ := hs.dims
  rw [s.px_toggledGrid r0 c0 r c (by omega) (by omega), if_neg (by omega)]
  exact hs.outside r c hrc

/-- INVERT leaves the cells outside the grid off (42_grid.md R93). -/
theorem State.Inv.px_invertedGrid_outside {s : State} (hs : s.Inv) {r c : Nat} (hrc : s.gridH ≤ r ∨ s.gridW ≤ c) :
    Grid.px s.invertedGrid r c = false := by
  rw [s.px_invertedGrid_eq r c, if_neg (by omega)]
  exact hs.outside r c hrc

/-- The completion of a command keeps the invariant: each of its ends. -/
theorem State.Inv.exec_command {s t : State} {i : Instr} (hs : s.Inv) (hi : isCommand i = true)
    (hn : s.status.noResult = true) (ht : exec i s = .next t) : t.Inv := by
  obtain ⟨hbusy, hres⟩ := exec_command_completes s t i hi hn ht
  cases i <;> simp [isCommand] at hi
  case encode =>
    obtain rfl := Host.Outcome.next.inj ((exec_encode s).symm.trans ht)
    exact hs.completed hbusy hres rfl hs.width hs.height hs.outside (Mem.wf_memWriteAll _ s hs.bufWf) hs.adjusted
  case decode force =>
    rcases exec_decode_cases s force with ⟨-, e⟩ | ⟨-, -, -, e⟩ | ⟨hv, -, e⟩ <;>
      obtain rfl := Host.Outcome.next.inj (e.symm.trans ht)
    · exact hs.completed hbusy hres rfl hs.width hs.height hs.outside hs.bufWf (adjH_mod _)
    · exact hs.completed hbusy hres rfl hs.width hs.height hs.outside hs.bufWf (adjH_mod _)
    · obtain ⟨hw1, hw, -, hh8, hh1, hh, -⟩ := validDims_bounds s.argA.toInt s.argB.toInt hv
      exact hs.completed hbusy hres rfl ⟨hw1, hw⟩ ⟨hh8, hh1, hh⟩
        (fun r c hrc => s.px_unpackedGrid_outside hw hh hrc) hs.bufWf (adjH_mod _)
  case resize =>
    rcases exec_resize_cases s with ⟨-, e⟩ | ⟨hv, e⟩ <;>
      obtain rfl := Host.Outcome.next.inj (e.symm.trans ht)
    · exact hs.completed hbusy hres rfl hs.width hs.height hs.outside hs.bufWf (adjH_mod _)
    · obtain ⟨hw1, hw, -, hh8, hh1, hh, -⟩ := validDims_bounds s.argA.toInt s.argB.toInt hv
      exact hs.completed hbusy hres rfl ⟨hw1, hw⟩ ⟨hh8, hh1, hh⟩
        (fun r c hrc => s.px_resizedGrid_outside hw hh hrc) hs.bufWf (adjH_mod _)
  case toggle =>
    rcases exec_toggle_cases s with ⟨hr0, hrH, hc0, hcW, e⟩ | ⟨-, e⟩ <;>
      obtain rfl := Host.Outcome.next.inj (e.symm.trans ht)
    · exact hs.completed hbusy hres rfl hs.width hs.height
        (fun r c hrc => hs.px_toggledGrid_outside (by omega) (by omega) hrc) hs.bufWf hs.adjusted
    · exact hs.completed hbusy hres rfl hs.width hs.height hs.outside hs.bufWf hs.adjusted
  case invert =>
    obtain rfl := Host.Outcome.next.inj ((exec_invert s).symm.trans ht)
    exact hs.completed hbusy hres rfl hs.width hs.height (fun r c => hs.px_invertedGrid_outside) hs.bufWf hs.adjusted

/-- A bus transaction keeps the invariant, whatever follows it in the host, as long as the host's variables stay in order
and the host awaits the end of any pending command. -/
theorem State.Inv.bus {s u : State} {i : Instr} {p : Nat} {vs : List (Nat × Word)} {ss : Session} (hs : s.Inv)
    (he : BusEffect i s u) (hvs : assocRising none vs = true) (haw : u.status.busy = true → ss.awaiting = true) :
    State.Inv { u with pos := p, vars := vs, session := ss } where
  width := by rw [he.gridW_eq]; exact hs.width
  height := by rw [he.gridH_eq]; exact hs.height
  outside := by
    rw [he.gridH_eq, he.gridW_eq]
    exact fun r c hrc => (s.pix_congr _ he.grid_eq r c).trans (hs.outside r c hrc)
  bufWf := by
    rcases he.buf with hb | ⟨-, d, -, hb⟩ <;> rw [hb]
    · exact hs.bufWf
    · exact Mem.wf_memWrite s _ _ hs.bufWf
  adjusted := by rw [he.adjH_eq]; exact hs.adjusted
  pending := by
    rcases he.status with hst | ⟨-, w, -, hst⟩ <;> rw [hst]
    · exact hs.pending
    · exact fun _ => s.status.issued_noResult
  idle := by
    rcases he.status with hst | ⟨-, w, -, hst⟩ <;> rw [hst]
    · exact hs.idle
    · exact fun h => nomatch h
  vars := hvs
  awaits := haw

/-- A STATUS read answers STATUS (40_host_bus.md R63). -/
theorem exec_rdStatus_rdata {s u : State} (hu : exec .rdStatus s = .next u) : u.rdata = s.status.word := by
  obtain rfl := Host.Outcome.next.inj hu
  rfl

/-- Only a read of STATUS that shows BUSY = 0 ends the host's wait. -/
theorem Session.note_awaiting (ss : Session) (i : Instr) (busy : Bool) (rdata : Word) (ha : ss.awaiting = true)
    (hrd : i = .rdStatus → rdata.getLsbD 0 = true) : (ss.note i busy rdata).awaiting = true := by
  cases i with
  | wrCmd w => cases busy <;> [rfl; exact ha]
  | rdStatus => rw [Session.note_rdStatus, if_pos (hrd rfl)]; exact ha
  | _ => exact ha

/-- A host that awaits the end of any pending command does so after its access too. -/
theorem note_awaits {s u : State} {i : Instr} (hs : s.status.busy = true → s.session.awaiting = true)
    (hk : isBusRead i = true ∨ isBusWrite i = true) (hu : exec i s = .next u) (hb : u.status.busy = true) :
    (s.session.note i s.status.busy u.rdata).awaiting = true := by
  rcases (exec_busEffect hk hu).status with hst | ⟨hidle, w, rfl, -⟩
  · have hbs : s.status.busy = true := by rw [hst] at hb; exact hb
    refine s.session.note_awaiting i _ _ (hs hbs) ?_
    rintro rfl
    rw [exec_rdStatus_rdata hu, Status.getLsbD_word]
    exact hbs
  · rw [hidle]
    rfl

/-- Settles O15: the reset, the completions, the host's accesses and its other lines each keep the invariant. -/
theorem everyStepKeepsTheInvariant : Obligations.EveryStepKeepsTheInvariant := by
  intro s t hs ht
  rcases step_cases s t ht with ⟨-, rfl⟩ | ⟨hc, i, hd, hi⟩ | ⟨hc, -, rfl⟩ | ⟨-, -, -, rfl⟩
    | ⟨-, -, i, u, p, vs, n, -, hk, hu, hvs, rfl⟩ | ⟨-, -, -, p, ss, hdlg, rfl⟩
  · exact hs.applyReset
  · exact hs.sampled.exec_command (decodeCmd_isCommand _ _ hd) (hs.pending (s.busy_of_blockCompletes hc)) hi
  · exact hs.completed rfl (s.status.completedResult_illcmd (hs.pending (s.busy_of_blockCompletes hc))) rfl
      hs.width hs.height hs.outside hs.bufWf hs.adjusted
  · exact hs.sampled
  · have hinv := hs.sampled.counted
    have heff := exec_busEffect hk hu
    have haw := note_awaits hinv.awaits hk hu
    simp only [State.counted_session, State.sampled_session, State.counted_status, State.sampled_status] at haw
    exact hinv.bus heff (hvs (heff.vars_eq ▸ hinv.vars)) haw
  · have hinv := hs.sampled.counted
    exact { hinv with awaits := fun hb => hdlg.awaiting.trans (by simpa using hinv.awaits hb) }

end Sys2Proof.Machine

/-! The whole-machine rules: over every step without reset, which agent changes what (10_state.md, 70_reset_and_hazards.md). -/
namespace Sys2Proof.Machine

/-- BUSYERR over a step without reset: kept, raised by a write in the busy window, or cleared by a write to STATUS. -/
theorem step_busyerr {s t : State} (hr : s.resetAsserted = false) (ht : step s = .next t) :
    t.status.busyerr = s.status.busyerr
    ∨ (s.status.busy = true ∧ (∃ i, s.hostPerforms i ∧ isBusWrite i = true) ∧ t.status.busyerr = true)
    ∨ (s.status.busy = false ∧ (∃ d : Word, s.hostPerforms (.wrStatus d) ∧ d.getLsbD 7 = true)
        ∧ t.status.busyerr = false) := by
  rcases step_effects hr ht with ⟨i, -, he⟩ | ⟨i, u, p, vs, ss, hp, he, rfl⟩ | ⟨hbe, -⟩
  · exact .inl he.busyerr
  · have hbe := he.busyerr
    simp only [State.counted_status, State.sampled_status] at hbe
    rcases hbe with hbe | ⟨hb, hw, hbe⟩ | ⟨hb, d, rfl, hd, hbe⟩
    · exact .inl hbe
    · exact .inr (.inl ⟨hb, ⟨i, hp, hw⟩, hbe⟩)
    · exact .inr (.inr ⟨hb, ⟨d, hp, hd⟩, hbe⟩)
  · exact .inl hbe

/-- Settles O49: the three ways of `step_busyerr`. -/
theorem busyerrIsSticky : Obligations.BusyerrIsSticky := by
  intro s t hr ht
  rcases step_busyerr hr ht with h | ⟨hb, hw, h⟩ | ⟨hb, hw, h⟩ <;> rw [h]
  · exact ⟨fun h1 h0 => absurd (h1.symm.trans h0) nofun, fun h0 h1 => absurd (h0.symm.trans h1) nofun⟩
  · exact ⟨fun _ => nofun, fun _ _ => ⟨hb, hw⟩⟩
  · exact ⟨fun _ _ => ⟨hb, hw⟩, fun _ => nofun⟩

/-- Settles O50: no access and no illegal word changes the grid or its dimensions; the commands by `CommandEffect`. -/
theorem onlyGridCommandsChangeTheGrid : Obligations.OnlyGridCommandsChangeTheGrid := by
  intro s t hr ht
  rcases step_effects hr ht with ⟨i, hp, he⟩ | ⟨i, u, p, vs, ss, -, he, rfl⟩ | ⟨-, ht⟩
  · refine ⟨fun hne => ?_, fun hne => ?_⟩
    · rcases he.dims with ⟨hok, rfl | ⟨f, rfl⟩⟩ | ⟨hw, hh⟩
      · exact ⟨hok, .inl hp⟩
      · exact ⟨hok, .inr ⟨f, hp⟩⟩
      · exact absurd hne (by simp [hw, hh])
    · have hi := decodeCmd_isCommand _ _ hp.2
      cases i <;> simp [isCommand] at hi
      case encode => exact absurd (he.grid.resolve_left fun h => h rfl) hne
      case decode force => exact .inr (.inr (.inr ⟨force, hp⟩))
      case resize => exact .inl hp
      case toggle => exact .inr (.inl hp)
      case invert => exact .inr (.inr (.inl hp))
  · have hg := he.grid_eq
    have hw := he.gridW_eq
    have hh := he.gridH_eq
    simp only [State.counted_grid, State.counted_gridW, State.counted_gridH] at hg hw hh
    exact ⟨fun hne => absurd hne (by simp [hw, hh]), fun hne => absurd hg hne⟩
  · rw [ht]
    exact ⟨fun hne => absurd hne (by simp), fun hne => absurd rfl hne⟩

/-- Settles O51: the commands keep ARG_A, ARG_B and PIX_SEL, the accesses ADJ_H, and each other change has its owner. -/
theorem onlyTheirOwnersChangeTheRegisters : Obligations.OnlyTheirOwnersChangeTheRegisters := by
  intro s t hr ht
  rcases step_effects hr ht with ⟨i, hp, he⟩ | ⟨i, u, p, vs, ss, hp, he, rfl⟩ | ⟨-, ht⟩
  · refine ⟨fun hne => absurd he.argA_eq hne, fun hne => absurd he.argB_eq hne, fun hne => absurd he.pixSel_eq hne,
      fun hne => ?_⟩
    rcases he.adjH.resolve_right hne with rfl | ⟨f, rfl⟩
    · exact .inl hp
    · exact .inr ⟨f, hp⟩
  · have hA := he.argA
    have hB := he.argB
    have hP := he.pixSel
    have hH := he.adjH_eq
    simp only [State.counted_argA, State.counted_argB, State.counted_pixSel, State.counted_adjH, State.sampled_argA,
      State.sampled_argB, State.sampled_pixSel, State.sampled_adjH, State.counted_status, State.sampled_status]
      at hA hB hP hH
    refine ⟨fun hne => ?_, fun hne => ?_, fun hne => ?_, fun hne => absurd hH hne⟩
    · obtain ⟨hb, rfl⟩ := hA.resolve_left hne
      exact ⟨hb, hp⟩
    · obtain ⟨hb, rfl⟩ := hB.resolve_left hne
      exact ⟨hb, hp⟩
    · obtain ⟨hb, d, rfl⟩ := hP.resolve_left hne
      exact ⟨hb, d, hp⟩
  · rw [ht]
    exact ⟨fun hne => absurd rfl hne, fun hne => absurd rfl hne, fun hne => absurd rfl hne,
      fun hne => absurd rfl hne⟩

/-- A legal command's completion is its meaning at the sampled state (40_host_bus.md R60). -/
theorem step_of_blockPerforms {s : State} {i : Instr} (hp : s.blockPerforms i) : step s = exec i s.sampled := by
  obtain ⟨hc, hd⟩ := hp
  rw [step_of_blockCompletes s hc, blockStep, State.sampled_pend, hd]

/-- Settles O6. -/
theorem stepRunsPendingCommand : Obligations.StepRunsPendingCommand :=
  fun _ _ hc hd => step_of_blockPerforms ⟨hc, hd⟩

/-- Settles O52: ENCODE by its packed cells, the accesses each by its owner while BUSY = 0. -/
theorem onlyEncodeAndThePortWriteTheBuffer : Obligations.OnlyEncodeAndThePortWriteTheBuffer := by
  intro s t hr ht
  rcases step_effects hr ht with ⟨i, hp, he⟩ | ⟨i, u, p, vs, ss, hp, he, rfl⟩ | ⟨-, ht⟩
  · rcases he.buffer with rfl | ⟨hbuf, hlen, hptr⟩
    · refine ⟨fun a hne => .inl ⟨hp, ?_⟩, fun _ => .inl hp, fun _ => .inl hp⟩
      by_contra hge
      exact hne (exec_encode_memRead_past ((step_of_blockPerforms hp).symm.trans ht) (Nat.not_lt.mp hge))
    · exact ⟨fun a hne => absurd (s.memRead_congr t hbuf he.run_eq a) hne, fun hne => absurd hptr hne,
        fun hne => absurd hlen hne⟩
  · have hread := he.memRead
    have hptr := he.bufPtr
    have hlen := he.bufLen
    simp only [State.counted_bufPtr, State.counted_bufLen, State.sampled_bufPtr, State.sampled_bufLen,
      State.counted_status, State.sampled_status] at hread hptr hlen
    have hs : ∀ a, s.sampled.counted.memRead a = s.memRead a :=
      s.memRead_congr _ (State.counted_buf _) (State.counted_run _)
    refine ⟨fun a hne => .inr ?_, fun hne => .inr ?_, fun hne => .inr ?_⟩
    · obtain ⟨hb, ha, d, rfl⟩ := (hread a).resolve_left fun h => hne (h.trans (hs a))
      exact ⟨hb, ha, d, hp⟩
    · obtain ⟨hb, rfl | ⟨d, rfl⟩ | ⟨d, rfl⟩⟩ := hptr.resolve_left hne
      · exact ⟨hb, .inl hp⟩
      · exact ⟨hb, .inr (.inl ⟨d, hp⟩)⟩
      · exact ⟨hb, .inr (.inr ⟨d, hp⟩)⟩
    · obtain ⟨hb, d, rfl, hd⟩ := hlen.resolve_left hne
      exact ⟨hb, d, hp, hd⟩
  · refine ⟨fun a hne => absurd (s.memRead_congr t ?_ ?_ a) hne, fun hne => absurd ?_ hne,
      fun hne => absurd ?_ hne⟩ <;> rw [ht]

/-! The wait rule (70_reset_and_hazards.md R119). -/

/-- The wait rule at a host step that makes an access. -/
theorem State.meetsWaitRule_of_access {s : State} {i : Instr} (hn : s.nextAccess = some i) :
    s.meetsWaitRule = true ↔ s.status.busy = true → isBusWrite i = false ∧ isGuardedRead i = false := by
  unfold State.meetsWaitRule
  rw [hn]
  cases s.status.busy <;> simp

/-- A host step that makes no access meets the wait rule. -/
theorem State.meetsWaitRule_of_none {s : State} (hn : s.nextAccess = none) : s.meetsWaitRule = true := by
  unfold State.meetsWaitRule
  rw [hn]
  exact Bool.or_true _

/-- A host step that makes no access keeps BUSYERR and the draws. -/
theorem step_of_no_access {s t : State} (hm : s.hostMoves = true) (hn : s.nextAccess = none)
    (ht : step s = .next t) : t.status = s.status ∧ t.draws = s.draws := by
  obtain ⟨-, ⟨-, rfl⟩ | ⟨i, _, _, _, _, hi, -⟩ | ⟨-, p, ss, -, rfl⟩⟩ := step_cases_of_hostMoves hm ht
  · exact ⟨rfl, rfl⟩
  · exact nomatch hn.symm.trans hi
  · exact ⟨State.counted_status _, State.counted_draws _⟩

/-- Settles O53: with no access nothing happens; a transaction's draw and its raise of BUSYERR by `BusEffect`, and the
hazard itself by the dropped write and the draw. -/
theorem waitRuleAvoidsTheHazard : Obligations.WaitRuleAvoidsTheHazard := by
  intro s t hm ht
  cases hn : s.nextAccess with
  | none =>
    obtain ⟨hst, hd⟩ := step_of_no_access hm hn ht
    exact ⟨fun _ h => by rw [hst]; exact h, fun _ _ => hd,
      fun h => absurd (State.meetsWaitRule_of_none hn) (ne_true_of_eq_false h)⟩
  | some i =>
    obtain ⟨u, p, vs, n, hk, hu, -, rfl⟩ := step_of_hostPerforms ⟨hm, hn⟩ ht
    have he := exec_busEffect hk hu
    have hbe := he.busyerr
    have hd := he.draws
    simp only [State.counted_status, State.sampled_status, State.counted_draws, State.sampled_draws] at hbe hd
    have hrule := State.meetsWaitRule_of_access hn
    refine ⟨fun h h0 => ?_, fun h hb => ?_, fun h => ?_⟩
    · rcases hbe with hbe | ⟨hb, hw, -⟩ | ⟨-, d, -, -, hbe⟩
      · exact hbe.trans h0
      · exact nomatch hw.symm.trans (hrule.mp h hb).1
      · exact hbe
    · rcases hd with hd | ⟨-, hg, -⟩ | ⟨hidle, -⟩
      · exact hd
      · exact nomatch hg.symm.trans (hrule.mp h hb).2
      · exact nomatch hb.symm.trans hidle
    · have hno := mt hrule.mpr (ne_true_of_eq_false h)
      simp only [Classical.not_imp, not_and_or, Bool.not_eq_false] at hno
      obtain ⟨hb, hw | hg⟩ := hno
      · rw [exec_write_busy _ i hw (by simpa using hb)] at hu
        obtain rfl := Host.Outcome.next.inj hu
        exact .inl rfl
      · rw [exec_guardedRead_busy _ i (by simpa using hb) hg] at hu
        obtain rfl := Host.Outcome.next.inj hu
        exact .inr (congrArg (· + 1) (State.counted_draws _))

/-! A pending command completes (70_reset_and_hazards.md R121). -/

/-- A completion, legal or not, ends with BUSY = 0. -/
theorem step_blockCompletes_busy {s t : State} (hc : s.blockCompletes = true) (ht : step s = .next t) :
    t.status.busy = false := by
  rw [step_of_blockCompletes s hc, blockStep] at ht
  cases hd : decodeCmd s.sampled.pend with
  | ok i =>
    rw [hd] at ht
    exact (exec_commandEffect (decodeCmd_isCommand _ _ hd) ht).busy
  | error e =>
    rw [hd] at ht
    obtain rfl := Host.Outcome.next.inj ht
    rfl

/-- The host has no line left exactly past the end of its program (70_reset_and_hazards.md R123). -/
theorem State.hostDone_iff (s : State) : s.hostDone = true ↔ s.prog[s.pos]? = none := by
  rw [State.hostDone, decide_eq_true_iff, List.getElem?_eq_none_iff]

/-- While BUSY = 1 a host step has a line, and host steps of the command left. -/
theorem State.hostMoves_busy {s : State} (hm : s.hostMoves = true) (hb : s.status.busy = true) :
    s.hostDone = false ∧ s.delay ≠ 0 := by
  simp only [State.hostMoves, State.blockMoves, State.sampled_status, hb, Bool.true_and, Bool.and_eq_true,
    Bool.not_eq_true', Bool.or_eq_false_iff, beq_eq_false_iff_ne] at hm
  exact hm.2

/-- A host step while BUSY = 1 keeps the command pending and counts one of its host steps. -/
theorem step_hostMoves_counts {s t : State} (hm : s.hostMoves = true) (hb : s.status.busy = true)
    (ht : step s = .next t) : t.status.busy = true ∧ t.delay = s.delay - 1 ∧ t.resets = s.resets.tail := by
  have hdelay : s.sampled.counted.delay = s.delay - 1 := by simp [hb]
  obtain ⟨-, ⟨hl, -⟩ | ⟨i, u, p, vs, n, -, hk, hu, -, rfl⟩ | ⟨-, p, ss, -, rfl⟩⟩ := step_cases_of_hostMoves hm ht
  · exact nomatch ((s.hostDone_iff).mpr hl).symm.trans (State.hostMoves_busy hm hb).1
  · have he := exec_busEffect hk hu
    obtain ⟨-, hd, -, hst⟩ := resolve_of_busy he.issue (by simpa using hb)
    exact ⟨by rw [hst]; simpa using hb, hd.trans hdelay, he.resets_eq.trans (State.counted_resets _)⟩
  · exact ⟨by simpa using hb, hdelay, State.counted_resets _⟩

/-- Where the reset input is not asserted, the block completes or the host moves. -/
theorem State.hostMoves_of_not_blockCompletes {s : State} (hr : ∀ b ∈ s.resets, b = false)
    (hc : s.blockCompletes = false) : s.hostMoves = true := by
  have hra : s.resetAsserted = false := by
    cases hl : s.resets with
    | nil => simp [State.resetAsserted, hl]
    | cons b rest => simp [State.resetAsserted, hl, hr b (by simp [hl])]
  simp only [State.blockCompletes, hra, Bool.not_false, Bool.true_and] at hc
  simp [State.hostMoves, hra, hc]

/-- A pending command with fewer than `n` host steps left completes within `n` steps. -/
theorem run_completes (n : Nat) : ∀ s t : State, s.status.busy = true → (∀ b ∈ s.resets, b = false) → s.delay < n →
    Host.Core.run core n s = .next t →
    ∃ k u, k ≤ n ∧ Host.Core.run core k s = .next u ∧ u.status.busy = false := by
  induction n with
  | zero => exact fun s t _ _ hd => absurd hd (Nat.not_lt_zero _)
  | succ n ih =>
    intro s t hb hr hd hrun
    obtain ⟨u, hu, hrest⟩ := step_of_run_succ n s t hrun
    cases hc : s.blockCompletes with
    | true => exact ⟨1, u, by omega, run_succ_of_step 0 s u hu, step_blockCompletes_busy hc hu⟩
    | false =>
      have hm := State.hostMoves_of_not_blockCompletes hr hc
      obtain ⟨-, hpos⟩ := State.hostMoves_busy hm hb
      obtain ⟨hub, hud, hur⟩ := step_hostMoves_counts hm hb hu
      have hur' : ∀ b ∈ u.resets, b = false := fun b hmem => hr b (List.mem_of_mem_tail (hur ▸ hmem))
      obtain ⟨k, v, hk, hv, hvb⟩ := ih u t hub hur' (by omega) hrest
      exact ⟨k + 1, v, by omega, (run_succ_of_step k s u hu).trans hv, hvb⟩

/-- Settles O54: `run_completes` for the delay itself. -/
theorem pendingCommandCompletes : Obligations.PendingCommandCompletes :=
  fun s t hb hr hrun => run_completes (s.delay + 1) s t hb hr (Nat.lt_succ_self _) hrun

end Sys2Proof.Machine

/-! The step of each kind of line, of a placed word, of reset and of an idle machine, as equations. -/
namespace Sys2Proof.Machine

/-! The host's step (40_host_bus.md section 1). -/

/-- The state a host line runs at: this step's reset sample used up and, while BUSY = 1, one host step counted. -/
theorem State.sampled_counted_eq (s : State) : s.sampled.counted = { s with
    resets := s.resets.tail
    delay := if s.status.busy then s.delay - 1 else s.delay } := by
  rw [State.counted_eq]
  rfl

/-- A host that is not bound, or meets its duties, breaks none. -/
theorem State.breaksDuty_eq_false {s : State} (h : s.session.bound = false ∨ s.meetsDuties = true) :
    s.breaksDuty = false := by
  rcases h with h | h <;> simp [State.breaksDuty, h]

/-- A line that makes no access breaks no duty: only an access or the program's end can (60_exceptions.md R115). -/
theorem State.breaksDuty_of_no_access {s : State} {line : HostLine} (hl : s.prog[s.pos]? = some line)
    (hn : s.nextAccess = none) : s.breaksDuty = false := by
  have hdone : s.hostDone = false := by
    rw [← Bool.not_eq_true, s.hostDone_iff, hl]
    exact nofun
  apply State.breaksDuty_eq_false
  right
  unfold State.meetsDuties
  rw [hn, hdone]
  rfl

/-- A host line that breaks no duty is performed. -/
theorem step_of_line {s : State} {line : HostLine} (hm : s.hostMoves = true) (hl : s.prog[s.pos]? = some line)
    (hd : s.breaksDuty = false) : step s = hostLine exec line s.sampled.counted := by
  rw [step_of_hostMoves s line hm hl, hd]
  rfl

/-- An access that decodes is its transaction, the value bound and the access noted. -/
theorem busAccess_of_exec {s u : State} {sel : BitVec 9} {data : Word} {i : Instr} (bind : Option Nat)
    (go : State → State) (hd : decodeBus sel data = .ok i) (hu : exec i s = .next u) :
    busAccess exec 32 sel data bind go s = .next (go ((u.bindRead sel bind).noted i s.status.busy)) := by
  simp [busAccess, hd, hu]

/-- A bound variable's value is gone on with. -/
theorem State.withVar_bound {s : State} {v : Nat} {w : Word} (go : Word → Result)
    (hv : assocGet v s.vars = some w) : s.withVar v go = go w := by
  rw [State.withVar, hv]

/-- Settles O5: the line's access by `busAccess_of_exec`, at a bus line and at a reading line. -/
theorem stepRunsDecodedTransaction : Obligations.StepRunsDecodedTransaction := by
  intro s hm hduty counted
  have hstep := fun line hl => step_of_line (line := line) hm hl (State.breaksDuty_eq_false hduty)
  rw [show s.sampled.counted = counted from s.sampled_counted_eq] at hstep
  refine ⟨fun sel data bind i hl hd => ?_, fun count first n hl hv => ?_⟩
  · obtain ⟨u, hu⟩ := exec_answers_next i counted
    rw [hstep _ hl, hostLine, busAccess_of_exec bind _ hd hu, hu, State.bindRead_eq]
    cases bind <;> rfl
  · rw [hstep _ hl, hostLine, State.withVar_bound (s := counted) _ hv]
    refine ⟨fun hlt => ?_, fun hge => ?_⟩
    · obtain ⟨u, hu⟩ := exec_answers_next .rdBufData counted
      have hd : decodeBus (selector false .bufData) 0 = .ok .rdBufData := rfl
      have hloop : u.session.loop = s.session.loop := by rw [exec_session _ counted u hu]
      rw [readByte, if_pos (show counted.session.loop < n.toNat from hlt), Config.accessBits,
        busAccess_of_exec (some (first + s.session.loop)) State.nextByte hd hu, hu, State.bindRead_eq, ← hloop]
      rfl
    · rw [readByte, if_neg (show ¬ counted.session.loop < n.toNat from Nat.not_lt.mpr hge)]
      rfl

/-! Refused and admitted accesses (20_memory.md R35). -/

/-- A selector that decodes to nothing is refused as misaligned or, at an aligned offset, as unmapped (log entry 11). -/
theorem decodeBus_error {sel : BitVec 9} {data : Word} (hd : ∀ i, decodeBus sel data ≠ .ok i) :
    decodeBus sel data = .error (if selOffset sel % 4 = 0 then .unmapped else .misaligned) := by
  have hmod : selOffset sel % 4 = sel.toNat % 4 := by
    rw [selOffset, BitVec.toNat_setWidth]
    omega
  rw [hmod]
  unfold decodeBus at hd ⊢
  split at hd
  case h_23 => split <;> simp_all
  all_goals exact absurd rfl (hd _)

/-- A selector is W*256 + o (30_encoding.md R48). -/
theorem eq_selector {sel : BitVec 9} {r : BusReg} (ho : selOffset sel = r.offset) :
    sel = selector (selIsWrite sel) r := by
  have hbit : (selIsWrite sel).toNat = sel.toNat / 256 % 2 := by
    rw [selIsWrite, BitVec.getLsbD, Nat.toNat_testBit]
  rw [selOffset, BitVec.toNat_setWidth] at ho
  apply BitVec.eq_of_toNat_eq
  rw [selector, BitVec.toNat_ofNat, ← ho]
  cases hw : selIsWrite sel <;> rw [hw] at hbit <;> simp at hbit ⊢ <;> omega

/-- The admitted selectors are those of the eleven registers' offsets. -/
theorem decodeBus_selector (w : Bool) (r : BusReg) (data : Word) : ∃ i, decodeBus (selector w r) data = .ok i := by
  cases w <;> cases r <;> exact ⟨_, rfl⟩

/-- The OFF field of a register's selector is its offset. -/
theorem selOffset_selector (w : Bool) (r : BusReg) : selOffset (selector w r) = r.offset := by
  cases w <;> cases r <;> rfl

/-- Every encoded transaction has a register's selector. -/
theorem selector_of_encode {i : Instr} {sel : BitVec 9} {data : Word} (h : encode i = .bus sel data) :
    ∃ w r, sel = selector w r := by
  cases i <;> cases h <;> exact ⟨_, _, rfl⟩

/-- A selector decodes exactly where its offset is a register's (20_memory.md R35). -/
theorem decodeBus_ok_iff_offset (sel : BitVec 9) (data : Word) :
    (∃ i, decodeBus sel data = .ok i) ↔ ∃ r ∈ BusReg.all, selOffset sel = r.offset := by
  constructor
  · rintro ⟨i, hd⟩
    obtain ⟨henc, -⟩ := encode_admittedTransactions data (sel, i) ((decodeBus_ok_iff sel data i).mp hd)
    obtain ⟨w, r, rfl⟩ := selector_of_encode henc
    exact ⟨r, by cases r <;> decide, selOffset_selector w r⟩
  · rintro ⟨r, -, ho⟩
    rw [eq_selector ho]
    exact decodeBus_selector _ r data

/-- The registers' offsets are aligned (10_state.md R11). -/
theorem busReg_offset_mod (r : BusReg) : r.offset % 4 = 0 := by
  cases r <;> rfl

/-- An access that decodes to nothing, or is not a full word, is no admitted access: the host's step comes to it, since
no duty speaks of it. -/
theorem step_of_inadmissible {s : State} {width : Nat} {sel : BitVec 9} {data : Word} {bind : Option Nat}
    (hm : s.hostMoves = true) (hl : s.prog[s.pos]? = some (.bus width sel data bind))
    (h : width ≠ 32 ∨ ∀ i, decodeBus sel data ≠ .ok i) :
    step s = if width = 32 then
        .refused (if selOffset sel % 4 = 0 then .accessUnmapped else .accessMisaligned)
      else .refused .accessNotFullWord := by
  have hn : s.nextAccess = none := by
    by_cases hw : width = 32
    · simp [State.nextAccess, hl, hw, decodeBus_error (h.resolve_left fun hne => hne hw), Except.toOption]
    · simp [State.nextAccess, hl, hw]
  rw [step_of_line hm hl (State.breaksDuty_of_no_access hl hn), hostLine, busAccess]
  by_cases hw : width = 32
  · rw [if_pos hw, if_pos hw, decodeBus_error (h.resolve_left fun hne => hne hw)]
    dsimp only
    split <;> rfl
  · rw [if_neg hw, if_neg hw]

/-- Settles O9: the refusals by `step_of_inadmissible`; an admitted access by its transaction, which answers. -/
theorem inadmissibleAccessIsRefused : Obligations.InadmissibleAccessIsRefused := by
  intro s width sel data bind hm hl
  have hundecoded : (∀ r ∈ BusReg.all, selOffset sel ≠ r.offset) → ∀ i, decodeBus sel data ≠ .ok i := by
    intro hr i hd
    obtain ⟨r, hmem, ho⟩ := (decodeBus_ok_iff_offset sel data).mp ⟨i, hd⟩
    exact hr r hmem ho
  refine ⟨fun hw => ?_, fun hw hmis => ?_, fun hw hal hr => ?_, fun hw hr hduty => ?_⟩
  · rw [step_of_inadmissible hm hl (.inl hw), if_neg hw]
  · have hd := hundecoded fun r _ ho => hmis (ho ▸ busReg_offset_mod r)
    rw [step_of_inadmissible hm hl (.inr hd), if_pos hw, if_neg hmis]
  · rw [step_of_inadmissible hm hl (.inr (hundecoded hr)), if_pos hw, if_pos hal]
  · obtain ⟨i, hd⟩ := (decodeBus_ok_iff_offset sel data).mpr hr
    obtain ⟨u, hu⟩ := exec_answers_next i s.sampled.counted
    subst hw
    exact ⟨_, (step_of_line hm hl (State.breaksDuty_eq_false hduty)).trans (busAccess_of_exec bind _ hd hu)⟩

/-! Lines that make no access (30_encoding.md R55, log entries 4 and 16). -/

/-- A jump to a declared label goes to the line that declares it. -/
theorem State.jumpTo_declared {s : State} {l p : Nat}
    (h : s.prog.findIdx? (fun line => line.declares == some l) = some p) : s.jumpTo l = .next { s with pos := p } := by
  rw [State.jumpTo, h]

/-- The variables hold the bytes an output gives out, one by one. -/
theorem State.boundBytes_of_vars (s : State) (bytes : List Byte) : ∀ first : Nat,
    (∀ k (h : k < bytes.length), ∃ w : Word, assocGet (first + k) s.vars = some w ∧ bytes[k] = w.setWidth 8) →
    s.boundBytes first bytes.length = .ok bytes := by
  induction bytes with
  | nil => exact fun _ _ => rfl
  | cons b rest ih =>
    intro first h
    obtain ⟨w, hw, hb⟩ := h 0 (Nat.zero_lt_succ _)
    have hrest := ih (first + 1) fun k hk => by
      obtain ⟨x, hx, hbx⟩ := h (k + 1) (Nat.succ_lt_succ hk)
      exact ⟨x, by rw [Nat.add_assoc, Nat.add_comm 1 k]; exact hx, hbx⟩
    rw [List.length_cons, State.boundBytes]
    rw [Nat.add_zero] at hw
    simp [hw, hrest, ← hb]

/-- A line that makes no access breaks no duty: the step is the line. -/
theorem step_of_internal_line {s : State} {line : HostLine} (hm : s.hostMoves = true)
    (hl : s.prog[s.pos]? = some line) (hbus : ∀ width sel data bind, line ≠ .bus width sel data bind)
    (hread : ∀ count first, line ≠ .readBytes count first) : step s = hostLine exec line s.sampled.counted := by
  refine step_of_line hm hl (State.breaksDuty_of_no_access hl ?_)
  cases line with
  | bus width sel data bind => exact absurd rfl (hbus width sel data bind)
  | readBytes count first => exact absurd rfl (hread count first)
  | _ => simp [State.nextAccess, hl]

/-- Settles O10: a line that makes no access breaks no duty, so that the step is the line, each by its definition. -/
theorem hostInternalLinesTouchOnlyTheHost : Obligations.HostInternalLinesTouchOnlyTheHost := by
  intro s line hm hl counted
  have hstep := step_of_internal_line hm hl
  rw [show s.sampled.counted = counted from s.sampled_counted_eq] at hstep
  refine ⟨?_, ?_, ?_, ?_, ?_, ?_, ?_, ?_, ?_, ?_, ?_⟩
  · rintro l rfl
    rw [hstep nofun nofun]
    rfl
  · rintro l p rfl hp
    rw [hstep nofun nofun]
    exact State.jumpTo_declared (s := counted) hp
  · rintro v n l w rfl hv hbit
    rw [hstep nofun nofun, hostLine, State.withVar_bound (s := counted) _ hv, hbit]
    rfl
  · rintro v n l w p rfl hv hbit hp
    rw [hstep nofun nofun, hostLine, State.withVar_bound (s := counted) _ hv, hbit]
    exact State.jumpTo_declared (s := counted) hp
  · rintro v w rfl hv
    rw [hstep nofun nofun, hostLine, State.withVar_bound (s := counted) _ hv, if_pos rfl]
    rfl
  · rintro v w x rfl hv hne
    rw [hstep nofun nofun, hostLine, State.withVar_bound (s := counted) _ hv, if_neg hne]
  · rintro n rfl
    rw [hstep nofun nofun]
    rfl
  · rintro v a status adjH rfl hv ha
    rw [hstep nofun nofun, hostLine, State.withVar_bound (s := counted) _ hv, State.withVar_bound (s := counted) _ ha]
    refine ⟨_, rfl, ?_⟩
    rw [Bool.or_eq_true, Bool.and_eq_true, Bool.not_eq_true', decide_eq_true_iff]
    rfl
  · rintro l rfl hno
    rw [hstep nofun nofun, hostLine, if_neg (by rw [hno]; exact nofun)]
    simp [State.asked, State.setSession, State.nextLine, counted, hno]
  · rintro l p rfl hyes hp
    rw [hstep nofun nofun, hostLine, if_pos hyes, State.jumpTo_declared (s := counted.asked) hp]
    cases haw : s.session.awaiting <;> simp [State.asked, State.setSession, State.choice, counted, hyes, haw]
  · rintro count first n bytes rfl hv hlen hbytes
    rw [hstep nofun nofun, hostLine, State.withVar_bound (s := counted) _ hv, ← hlen,
      State.boundBytes_of_vars counted bytes first hbytes]
    rfl

/-! Reset and the idle machine. -/

/-- STATUS reads 0 after the reset event (70_reset_and_hazards.md R116). -/
theorem State.applyReset_status_word (s : State) : s.applyReset.status.word = 0 :=
  show State.reset.status.word = 0 from rfl

/-- Settles O13: the step is the reset event, whatever else could move (70_reset_and_hazards.md R116). -/
theorem resetEventTakesPriority : Obligations.ResetEventTakesPriority := by
  intro s hr
  refine ⟨s.applyReset, ?_, rfl, rfl, s.applyReset_status_word, rfl, rfl, rfl, rfl, rfl, rfl, rfl, rfl,
    State.pix_reset, rfl, fun i hi => s.applyReset.memRead_unwritten i rfl hi, rfl, rfl, rfl, rfl⟩
  rw [step, stepWith, if_pos hr]

/-- Settles O11: the block has nothing to complete and the host no line (log entry 5). -/
theorem idleBlockKeepsItsState : Obligations.IdleBlockKeepsItsState := by
  intro s hr hend hduty
  obtain ⟨hdone, hb⟩ : s.hostDone = true ∧ s.status.busy = false := by
    simpa [State.runEnded] using hend
  have hmoves : s.sampled.blockMoves = false := by simp [State.blockMoves, hb]
  rw [step, stepWith, hr, hmoves, State.breaksDuty_eq_false hduty, s.hostDone_iff.mp hdone]
  rfl

/-! The placed word (log entry 9). -/

/-- The word of a 32-bit number of the table is placed in PEND. -/
theorem State.withFetchWord_cmd (s : State) (w : Word) : s.withFetchWord 32 w.toNat = s.placeCmd w := by
  have henc : encodedOfTableWord 32 w.toNat = some (.cmd w) := by
    simp [encodedOfTableWord, w.isLt]
  rw [State.withFetchWord, State.placeTableWord, henc]
  rfl

/-- The selector of a 16-bit number of the table is placed as the host's line, with DATA 0. -/
theorem State.withFetchWord_bus (s : State) (sel : BitVec 9) : s.withFetchWord 16 sel.toNat = s.placeBus sel 0 := by
  have henc : encodedOfTableWord 16 sel.toNat = some (.bus sel 0) := by
    simp [encodedOfTableWord, sel.isLt]
  rw [State.withFetchWord, State.placeTableWord, henc]
  rfl

/-- A placed transaction waits in no reset and for no completion: the next step is the host's. -/
theorem State.placeBus_hostMoves (s : State) (sel : BitVec 9) (data : Word) :
    (s.placeBus sel data).hostMoves = true := by
  cases hb : s.status.busy <;>
    simp [State.hostMoves, State.resetAsserted, State.placeBus, State.withoutReset, State.blockMoves, State.sampled,
      State.hostDone, hb]

/-- The state a placed transaction runs at. -/
theorem State.placeBus_counted (s : State) (sel : BitVec 9) (data : Word) :
    ∃ d, (s.placeBus sel data).sampled.counted = { s with
      resets := s.resets.tail, prog := [.bus 32 sel data none], pos := 0, delay := d
      session := { s.session with bound := false } } :=
  ⟨_, (s.placeBus sel data).sampled_counted_eq⟩

/-- Settles O7: the placed command's completion is `step_of_blockPerforms`, the placed transaction `busAccess_of_exec`. -/
theorem placedWordIsRunNext : Obligations.PlacedWordIsRunNext := by
  refine ⟨fun s w i hd => ?_, fun s sel i hd => ?_⟩
  · have hp : (s.placeCmd w).blockPerforms i := by
      refine ⟨?_, hd⟩
      simp [State.blockCompletes, State.resetAsserted, State.placeCmd, State.withoutReset, State.blockMoves,
        State.sampled]
    rw [s.withFetchWord_cmd, step_of_blockPerforms hp]
    rfl
  · obtain ⟨d, hplaced⟩ := s.placeBus_counted sel 0
    obtain ⟨u, hu⟩ := exec_answers_next i (s.placeBus sel 0).sampled.counted
    rw [hplaced] at hu
    refine ⟨d, ?_⟩
    rw [s.withFetchWord_bus, step_of_line (s.placeBus_hostMoves sel 0) rfl (State.breaksDuty_eq_false (.inl rfl)),
      hplaced, hostLine, busAccess_of_exec none _ hd hu, hu]
    rfl

end Sys2Proof.Machine

/-! The host's procedures and text formats (47_host_text_formats.md): the load of the buffer, the text given out read back,
and what the load of a text comes to. -/
namespace Sys2Proof.Machine

/-! The load of the buffer (R56, R99). -/

/-- A sequence of instructions goes on from the state its first part reaches. -/
theorem execAll_append {is js : List Instr} : ∀ {s t : State}, execAll is s = .next t →
    execAll (is ++ js) s = execAll js t := by
  induction is with
  | nil => rintro s t h; cases h; rfl
  | cons i is ih =>
    intro s t h
    obtain ⟨u, hu⟩ := exec_answers_next i s
    rw [execAll_cons hu] at h
    rw [List.cons_append, execAll_cons hu]
    exact ih h

/-- The state after one byte written to the data port while BUSY = 0 (40_host_bus.md R75). -/
theorem exec_wrBufData_byte (s : State) (b : Byte) (hb : s.status.busy = false) :
    exec (.wrBufData (b.setWidth 32)) s = .next (s.memWrite s.bufPtr.toNat b).advancePtr := by
  have hbyte : (b.setWidth 32).setWidth 8 = b := by simp
  rw [exec_write_idle s _ rfl hb, State.writeEffect, hbyte]

/-- Bytes written to the data port one after another from the pointer on: they stand there in order, those below 1024;
every other byte, and all but BUF and BUF_PTR, is as it was. -/
theorem execAll_wrBufData (bytes : List Byte) : ∀ s : State, s.status.busy = false →
    s.bufPtr.toNat + bytes.length < 65536 →
    ∃ t, execAll (bytes.map fun b => .wrBufData (b.setWidth 32)) s = .next t
      ∧ t = { s with buf := t.buf, bufPtr := t.bufPtr }
      ∧ t.bufPtr.toNat = s.bufPtr.toNat + bytes.length
      ∧ (∀ k (h : k < bytes.length), s.bufPtr.toNat + k < 1024 → t.memRead (s.bufPtr.toNat + k) = bytes[k])
      ∧ ∀ a, a < s.bufPtr.toNat ∨ s.bufPtr.toNat + bytes.length ≤ a → t.memRead a = s.memRead a := by
  induction bytes with
  | nil => exact fun s _ _ => ⟨s, rfl, rfl, rfl, nofun, fun _ _ => rfl⟩
  | cons b rest ih =>
    intro s hb hlen
    rw [List.length_cons] at hlen
    obtain ⟨p, hp⟩ : ∃ p, s.bufPtr.toNat = p := ⟨_, rfl⟩
    obtain ⟨s₁, hs₁⟩ : ∃ s₁, s₁ = (s.memWrite s.bufPtr.toNat b).advancePtr := ⟨_, rfl⟩
    have hp₁ : s₁.bufPtr.toNat = p + 1 := by
      rw [hs₁, State.advancePtr_bufPtr, State.memWrite_bufPtr, BitVec.toNat_add, hp]
      exact Nat.mod_eq_of_lt (show p + 1 < 65536 by omega)
    have hread : ∀ a, a ≠ p → s₁.memRead a = s.memRead a := fun a ha => by
      rw [hs₁, State.memRead_advancePtr, hp, s.memRead_memWrite_other _ _ _ ha]
    obtain ⟨t, ht, hframe, hptr, hbytes, hother⟩ := ih s₁ (by simpa [hs₁] using hb) (by omega)
    rw [hp₁] at hptr hbytes hother
    rw [hp]
    refine ⟨t, ?_, ?_, ?_, fun k hk hcap => ?_, fun a ha => ?_⟩
    · rw [List.map_cons, execAll_cons (exec_wrBufData_byte s b hb), ← hs₁, ht]
    · rw [hframe, hs₁, s.memWrite_eq]
      rfl
    · rw [hptr, List.length_cons]
      omega
    · cases k with
      | zero =>
        rw [hother _ (.inl (by omega)), hs₁, State.memRead_advancePtr, hp]
        exact s.memRead_memWrite_same p b hcap
      | succ k =>
        have hk' : k < rest.length := Nat.lt_of_succ_lt_succ hk
        have := hbytes k hk' (by omega)
        rwa [Nat.add_assoc, Nat.add_comm 1 k] at this
    · rw [List.length_cons] at ha
      rw [hother a (by omega), hread a (by omega)]

/-- Settles O55: the pointer set to 0, the bytes by `execAll_wrBufData`, and the length. -/
theorem loadingTheBufferStoresTheBytes : Obligations.LoadingTheBufferStoresTheBytes := by
  intro s bytes hb hlen
  obtain ⟨t, ht, hframe, hptr, hbytes, hother⟩ :=
    execAll_wrBufData bytes { s with bufPtr := 0 } hb (by simpa using hlen)
  have htb : t.status.busy = false := by rw [hframe]; exact hb
  simp only [show (0 : Half).toNat = 0 from rfl, Nat.zero_add] at hptr hbytes hother
  refine ⟨{ t with bufLen := BitVec.ofNat 16 bytes.length }, ?_, ?_, hptr, hbytes, fun a ha => hother a (.inr ha),
    ?_, ?_, ?_, ?_⟩
  · rw [List.cons_append, execAll_cons (exec_write_idle s (.wrBufPtr 0) rfl hb)]
    refine (execAll_append ht).trans ((execAll_cons (exec_write_idle t _ rfl htb)).trans ?_)
    simp [State.writeEffect, execAll]
  · exact (BitVec.toNat_ofNat _ 16).trans (Nat.mod_eq_of_lt hlen)
  all_goals rw [hframe]

/-! The text given out, read back (R96, R97). -/

/-- A text is read as these bytes wherever no token has begun, and leaves the scan there. -/
def Scans (text : List Char) (bytes : List Byte) : Prop :=
  ∀ rest, scanFrom .idle (text ++ rest) = bytes ++ scanFrom .idle rest

theorem Scans.append {text text' : List Char} {bytes bytes' : List Byte} (h : Scans text bytes)
    (h' : Scans text' bytes') : Scans (text ++ text') (bytes ++ bytes') := by
  intro rest
  rw [List.append_assoc, h, h', List.append_assoc]

/-- A text without a `0` holds no token and begins none. -/
theorem Scans.of_no_zero {text : List Char} (h : '0' ∉ text) : Scans text [] := by
  intro rest
  induction text with
  | nil => rfl
  | cons c text ih =>
    obtain ⟨hc, htext⟩ := not_or.mp (mt List.mem_cons.mpr h)
    rw [List.cons_append, scanFrom, if_neg (Ne.symm hc)]
    exact ih htext

/-- A hexadecimal digit reads as the number it writes. -/
theorem hexValue_hexDigit : ∀ n < 16, hexValue (hexDigit n) = some n := by
  decide

/-- A token is read as its byte. -/
theorem Scans.token (d : Byte) : Scans (exportToken d) [d] := by
  intro rest
  have hhi := hexValue_hexDigit (d.toNat / 16) (by omega)
  have hlo := hexValue_hexDigit (d.toNat % 16) (by omega)
  have hd : BitVec.ofNat 8 (16 * (d.toNat / 16) + d.toNat % 16) = d := by
    rw [Nat.div_add_mod, BitVec.ofNat_toNat, BitVec.setWidth_eq]
  simp [exportToken, scanFrom, hhi, hlo, hd]

/-- Texts joined by a separator without a `0` are read one after another. -/
theorem Scans.intercalate {α : Type} {sep : List Char} {text : α → List Char} {bytes : α → List Byte}
    (hsep : '0' ∉ sep) (h : ∀ x, Scans (text x) (bytes x)) (xs : List α) :
    Scans (List.intercalate sep (xs.map text)) (xs.flatMap bytes) := by
  induction xs with
  | nil => exact .of_no_zero nofun
  | cons x xs ih =>
    cases xs with
    | nil => simpa using h x
    | cons y ys =>
      have hjoin := (h x).append ((Scans.of_no_zero hsep).append ih)
      simpa [List.intercalate] using hjoin

/-- A line is read as its twelve bytes, or as many as are left. -/
theorem Scans.line (bytes : List Byte) (k : Nat) : Scans (exportLine bytes k) ((bytes.drop (12 * k)).take 12) := by
  have htokens := Scans.intercalate (sep := [',', ' ']) (by decide) Scans.token ((bytes.drop (12 * k)).take 12)
  have hend : Scans (if Config.lineBytes * k + Config.lineBytes < bytes.length then [','] else []) [] :=
    .of_no_zero (by split <;> decide)
  have hline := htokens.append hend
  rw [List.append_nil, List.flatMap_singleton'] at hline
  exact hline

/-- The lines hold the bytes in order, twelve to a line. -/
theorem flatMap_lines (bytes : List Byte) (m : Nat) :
    (List.range m).flatMap (fun k => (bytes.drop (12 * k)).take 12) = bytes.take (12 * m) := by
  induction m with
  | zero => rfl
  | succ m ih => rw [List.range_succ, List.flatMap_append, ih, List.flatMap_singleton, Nat.mul_succ, List.take_add]

/-- Settles O56: the wrapper and the separators hold no `0`, and each line is read as its bytes. -/
theorem exportTextScansBackToItsBytes : Obligations.ExportTextScansBackToItsBytes := by
  intro bytes _
  have hlines := Scans.intercalate (sep := ['\n']) (by decide) (Scans.line bytes)
    (List.range ((bytes.length + 11) / 12))
  have htext := ((Scans.of_no_zero (text := exportHeader) (by decide)).append hlines).append
    (Scans.of_no_zero (text := exportFooter) (by decide))
  have hscan := htext []
  rw [flatMap_lines, List.take_of_length_le (by omega)] at hscan
  simp only [List.append_nil, List.nil_append, scanFrom] at hscan
  exact hscan

/-! What the load of a text comes to (R98, R100). -/

/-- The notices that the block's own STATUS and ADJ_H call for. -/
theorem noticesOf_word (st : Status) (adjH : Word) : noticesOf st.word adjH =
    (if st.hadj then [.adjustedHeight adjH] else []) ++ (if st.valerr then [.validationError] else [])
      ++ (if st.lenmm then [.lengthMismatch] else []) ++ (if st.short then [.shortBuffer] else []) := by
  simp only [noticesOf, statusRejected, Status.getLsbD_word]
  rfl

/-- OK in the word a read of STATUS returns. -/
theorem statusOk_word (st : Status) : statusOk st.word = st.ok := st.getLsbD_word 1

/-- VALERR in the word a read of STATUS returns. -/
theorem statusRejected_word (st : Status) : statusRejected st.word = st.valerr := st.getLsbD_word 2

/-- A refusal for the length in the word a read of STATUS returns: LENMM without OK. -/
theorem statusRefused_word (st : Status) : statusRefused st.word = (st.lenmm && !st.ok) := by
  rw [statusRefused, statusOk_word]
  exact congrArg (· && !st.ok) (st.getLsbD_word 3)

/-- The host's report on the block's own STATUS and ADJ_H, of a text with a token. -/
theorem importReport_word {tokens : List Byte} (htok : tokens ≠ []) (st : Status) (adjH : Word) :
    importReport tokens st.word adjH =
      if st.ok then .done (noticesOf st.word adjH)
      else if st.valerr then .validationError (noticesOf st.word adjH)
      else if st.lenmm then .askUser (noticesOf st.word adjH)
      else .noReport := by
  have hempty : tokens.isEmpty = false := by simpa using htok
  rw [importReport, hempty, statusOk_word, statusRejected_word, statusRefused_word]
  cases st.ok <;> simp

/-- The ends of a DECODE with bits 6:1 clear on entry, by OK, VALERR and LENMM (41_codec.md R84). -/
theorem exec_decode_results {s t : State} {force : Bool} (hn : s.status.noResult = true)
    (ht : exec (.decode force) s = .next t) :
    (t.status.ok = true ∧ t.status.valerr = false)
    ∨ (t.status.ok = false ∧ t.status.valerr = true ∧ t.status.lenmm = false ∧ t.grid = s.grid)
    ∨ (t.status.ok = false ∧ t.status.valerr = false ∧ t.status.lenmm = true ∧ t.grid = s.grid ∧ force = false) := by
  obtain ⟨hok, hval, hlen, -⟩ := s.status.noResult_iff.mp hn
  rcases exec_decode_cases s force with ⟨-, e⟩ | ⟨-, -, hf, e⟩ | ⟨-, -, e⟩ <;>
    obtain rfl := Host.Outcome.next.inj (e.symm.trans ht)
  · exact .inr (.inl ⟨hok, rfl, hlen, rfl⟩)
  · exact .inr (.inr ⟨hok, hval, rfl, rfl, hf⟩)
  · exact .inl ⟨rfl, hval⟩

/-- Settles O57: the three ends of the DECODE, read by `importReport_word`; no token, no report. -/
theorem importReportFollowsDecode : Obligations.ImportReportFollowsDecode := by
  refine ⟨fun s t force tokens htok hn ht => ?_, fun text htext => ⟨fun w h l v => ?_, fun status adjH => ?_⟩⟩
  · rw [← noticesOf_word, importReport_word htok]
    rcases exec_decode_results hn ht with ⟨hok, hval⟩ | ⟨hok, hval, hlen, hg⟩ | ⟨hok, hval, hlen, hg, hf⟩
    · simp [hok, hval]
    · simp [hok, hval, hlen, hg]
    · simp [hok, hval, hlen, hg, hf]
  · rw [importLines, if_pos (by rw [malformedInput, htext]; rfl)]
  · rw [importReport, htext]
    rfl

end Sys2Proof.Machine

/-! A host bound to its duties breaks none (60_exceptions.md R115, 70_reset_and_hazards.md R119, log entry 13). -/
namespace Sys2Proof.Machine

/-! What a step does to the host's dealings with its user. -/

/-- The host notes an access in one of three ways, or not at all. -/
theorem Session.note_cases (ss : Session) (i : Instr) (busy : Bool) (rdata : Word) :
    ss.note i busy rdata = ss ∨ ss.note i busy rdata = ss.issued ∨ ss.note i busy rdata = ss.reloaded
      ∨ ss.note i busy rdata = ss.polled rdata := by
  cases i with
  | wrCmd w => cases busy <;> [exact .inr (.inl rfl); exact .inl rfl]
  | wrBufData w => exact .inr (.inr (.inl rfl))
  | wrBufLen w => exact .inr (.inr (.inl rfl))
  | rdStatus => rw [Session.note_rdStatus]; split <;> [exact .inl rfl; exact .inr (.inr (.inr rfl))]
  | _ => exact .inl rfl

/-- A step leaves the dealings with the user as they are, or notes an access, but for the reading line's count; or it is a
line of the dialogue. -/
theorem step_session {s t : State} (ht : step s = .next t) :
    (∃ ss n, (ss = s.session ∨ ss = s.session.issued ∨ ss = s.session.reloaded ∨ ∃ r, ss = s.session.polled r)
      ∧ t.session = { ss with loop := n })
    ∨ s.hostMoves = true ∧ Dialogue s t.session := by
  rcases step_cases s t ht with ⟨-, rfl⟩ | ⟨-, i, hd, hi⟩ | ⟨-, -, rfl⟩ | ⟨-, -, -, rfl⟩
    | ⟨-, -, i, u, p, vs, n, -, hk, hu, -, rfl⟩ | ⟨hm, -, -, p, ss, hdlg, rfl⟩
  · exact .inl ⟨s.session, _, .inl rfl, rfl⟩
  · exact .inl ⟨s.session, _, .inl rfl, (exec_commandEffect (decodeCmd_isCommand _ _ hd) hi).session_eq⟩
  · exact .inl ⟨s.session, _, .inl rfl, rfl⟩
  · exact .inl ⟨s.session, _, .inl rfl, rfl⟩
  · rcases s.session.note_cases i s.status.busy u.rdata with h | h | h | h
    · exact .inl ⟨_, n, .inl h, rfl⟩
    · exact .inl ⟨_, n, .inr (.inl h), rfl⟩
    · exact .inl ⟨_, n, .inr (.inr (.inl h)), rfl⟩
    · exact .inl ⟨_, n, .inr (.inr (.inr ⟨_, h⟩)), rfl⟩
  · exact .inr ⟨hm, hdlg⟩

/-- A bound host stays bound. -/
theorem step_bound {s t : State} (ht : step s = .next t) : t.session.bound = s.session.bound := by
  rcases step_session ht with ⟨ss, n, rfl | rfl | rfl | ⟨r, rfl⟩, h⟩ | ⟨-, hdlg⟩
  · rw [h]
  · rw [h]; rfl
  · rw [h]; rfl
  · rw [h]; rfl
  · exact hdlg.bound

/-- A refusal once seen is never forgotten. -/
theorem step_refused {s t : State} (ht : step s = .next t) (hr : s.session.refused = true) :
    t.session.refused = true := by
  rcases step_session ht with ⟨ss, n, rfl | rfl | rfl | ⟨r, rfl⟩, h⟩ | ⟨-, hdlg⟩
  · rw [h]; exact hr
  · rw [h]; exact hr
  · rw [h]; exact hr
  · rw [h]; exact Bool.or_eq_true_iff.mpr (.inl hr)
  · exact hdlg.refused.trans hr

/-- A proceed is kept, or comes from the user's answer after the last command's end was seen. -/
theorem step_consent {s t : State} (ht : step s = .next t) {c : Choice} (hc : t.session.consent = some c) :
    s.session.consent = some c
    ∨ (s.hostMoves = true ∧ (∃ l, s.prog[s.pos]? = some (.ask l)) ∧ s.session.answer = true
      ∧ s.session.awaiting = false ∧ c = s.choice) := by
  rcases step_session ht with ⟨ss, n, rfl | rfl | rfl | ⟨r, rfl⟩, h⟩ | ⟨hm, hdlg⟩
  · rw [h] at hc; exact .inl hc
  · rw [h] at hc; exact nomatch hc
  · rw [h] at hc; exact nomatch hc
  · rw [h] at hc; exact .inl hc
  · rcases hdlg.consent with h | h | ⟨h, haw, hans, hl⟩
    · exact .inl (h.symm.trans hc)
    · exact nomatch h.symm.trans hc
    · exact .inr ⟨hm, hl, hans, haw, Option.some.inj (hc.symm.trans h)⟩

/-- Notices come to count as reported only where all of the block's own have been shown. -/
theorem step_reported {s t : State} (ht : step s = .next t) (h0 : s.session.reported = false)
    (h1 : t.session.reported = true) : ∀ n ∈ s.notices, n ∈ t.session.shown := by
  rcases step_session ht with ⟨ss, n, rfl | rfl | rfl | ⟨r, rfl⟩, h⟩ | ⟨-, hdlg⟩
  · rw [h] at h1; exact nomatch h0.symm.trans h1
  · rw [h] at h1; exact nomatch h1
  · rw [h] at h1; exact nomatch h0.symm.trans h1
  · rw [h] at h1; exact nomatch h0.symm.trans h1
  · rcases hdlg.reported with h | ⟨-, hshown⟩
    · exact nomatch h0.symm.trans (h.symm.trans h1)
    · exact hshown

/-! The duties (60_exceptions.md R115). -/

/-- A bound host's step that reaches a next state meets its duties. -/
theorem State.meetsDuties_of_step {s t : State} (hbound : s.session.bound = true) (hm : s.hostMoves = true)
    (ht : step s = .next t) : s.meetsDuties = true := by
  obtain ⟨hd, -⟩ := step_cases_of_hostMoves hm ht
  simpa [State.breaksDuty, hbound] using hd

/-- Awaiting a command's end the host makes no write and no read of the six registers (70_reset_and_hazards.md R119). -/
theorem State.meetsDuties_awaiting {s : State} {i : Instr} (hd : s.meetsDuties = true) (hn : s.nextAccess = some i)
    (haw : s.session.awaiting = true) : isBusWrite i = false ∧ isGuardedRead i = false := by
  unfold State.meetsDuties at hd
  rw [hn, haw] at hd
  split at hd
  · exact nomatch hd
  · next j _ hj =>
    obtain rfl := Option.some.inj hj
    simpa using hd
  · next hj => exact nomatch hj

/-- A host owes no notice where the last command's were reported, or there are none. -/
theorem State.owesNotices_eq_false (s : State) :
    s.owesNotices = false ↔ s.session.reported = true ∨ noticesOf s.status.word s.adjH = [] := by
  rw [State.owesNotices, State.notices]
  cases s.session.reported <;> simp

/-- The duties at a command word. -/
theorem State.meetsDuties_wrCmd {s : State} {w : Word} (hd : s.meetsDuties = true)
    (hn : s.nextAccess = some (.wrCmd w)) :
    s.session.awaiting = false ∧ s.owesNotices = false ∧ (isForcedDecodeWord w && s.lacksConsent) = false := by
  unfold State.meetsDuties at hd
  rw [hn] at hd
  simpa only [Bool.and_eq_true, Bool.not_eq_true', and_assoc] using hd

/-- An ended program idles only where no notice is owed. -/
theorem State.meetsDuties_done {s : State} (hd : s.meetsDuties = true) (hdone : s.hostDone = true) :
    s.owesNotices = false := by
  unfold State.meetsDuties at hd
  rw [State.nextAccess_eq_none (s.hostDone_iff.mp hdone), hdone] at hd
  simpa using hd

/-- A bound host that awaits the end of any pending command makes no hazardous access while BUSY = 1. -/
theorem State.meetsWaitRule_of_duties {s : State} (hd : s.meetsDuties = true)
    (haw : s.status.busy = true → s.session.awaiting = true) : s.meetsWaitRule = true := by
  cases hn : s.nextAccess with
  | none => exact State.meetsWaitRule_of_none hn
  | some i => exact (State.meetsWaitRule_of_access hn).mpr fun hb => State.meetsDuties_awaiting hd hn (haw hb)

/-- What the host has noted after an access it performed. -/
theorem step_noted {s t : State} {i : Instr} (hp : s.hostPerforms i) (ht : step s = .next t) :
    ∃ u n, exec i s.sampled.counted = .next u
      ∧ t.session = { s.session.note i s.status.busy u.rdata with loop := n } := by
  obtain ⟨u, p, vs, n, -, hu, -, rfl⟩ := step_of_hostPerforms hp ht
  exact ⟨u, n, hu, rfl⟩

/-- A command word written while none is pending uses a proceed up. -/
theorem step_wrCmd_consent {s t : State} {w : Word} (hp : s.hostPerforms (.wrCmd w)) (hb : s.status.busy = false)
    (ht : step s = .next t) : t.session.consent = none := by
  obtain ⟨u, n, -, hss⟩ := step_noted hp ht
  rw [hss, hb]
  rfl

/-- A STATUS read that shows a refusal for the length makes it seen (47_host_text_formats.md R100). -/
theorem step_rdStatus_refused {s t : State} (hp : s.hostPerforms .rdStatus) (hb : s.status.busy = false)
    (hlen : s.status.lenmm = true) (hok : s.status.ok = false) (ht : step s = .next t) :
    t.session.refused = true := by
  obtain ⟨u, n, hu, hss⟩ := step_noted hp ht
  have hword : u.rdata = s.status.word := by simpa using exec_rdStatus_rdata hu
  have hbit : s.status.word.getLsbD 0 = false := (s.status.getLsbD_word 0).trans hb
  rw [hss, Session.note_rdStatus, hword, hbit]
  show (s.session.refused || statusRefused s.status.word) = true
  rw [statusRefused_word, hlen, hok]
  exact Bool.or_true _

/-- The word DECODE.F is the one that decodes so. -/
theorem isForcedDecodeWord_of_decodeCmd {w : Word} (h : decodeCmd w = .ok (.decode true)) :
    isForcedDecodeWord w = true := by
  rw [isForcedDecodeWord, h]

/-- A host that lacks no consent after a refusal seen has the user's proceed to this forced decode. -/
theorem State.consent_of_not_lacks {s : State} (h : s.lacksConsent = false) (hr : s.session.refused = true) :
    s.session.consent = some s.choice := by
  rw [State.lacksConsent, hr] at h
  simpa using h

/-- Settles O60: the session's clauses by `step_session`, the host's moves by the duties they meet, the hazards by the wait
rule that the duties imply. -/
theorem boundHostBreaksNoDuty : Obligations.BoundHostBreaksNoDuty := by
  intro s t hbound haw ht
  have hduty : s.hostMoves = true → s.meetsDuties = true := fun hm => State.meetsDuties_of_step hbound hm ht
  have hrule := fun hm => State.meetsWaitRule_of_duties (hduty hm) haw
  refine ⟨(step_bound ht).trans hbound, fun i hp => State.meetsDuties_awaiting (hduty hp.1) hp.2,
    fun hm hdone => s.owesNotices_eq_false.mp (State.meetsDuties_done (hduty hm) hdone),
    fun hm => (waitRuleAvoidsTheHazard s t hm ht).1 (hrule hm),
    fun hm => (waitRuleAvoidsTheHazard s t hm ht).2.1 (hrule hm), fun w hp => ?_, step_refused ht,
    fun hp hb hlen hok => step_rdStatus_refused hp hb hlen hok ht, fun c => step_consent ht, ?_, step_reported ht⟩
  · obtain ⟨hnot, howes, hforced⟩ := State.meetsDuties_wrCmd (hduty hp.1) hp.2
    have hb : s.status.busy = false := by
      cases hb : s.status.busy
      · rfl
      · exact nomatch hnot.symm.trans (haw hb)
    refine ⟨hb, s.owesNotices_eq_false.mp howes, fun hw hr => ?_, step_wrCmd_consent hp hb ht⟩
    rw [isForcedDecodeWord_of_decodeCmd hw] at hforced
    exact State.consent_of_not_lacks hforced hr
  · rintro d (hp | hp) <;>
      obtain ⟨u, n, -, hss⟩ := step_noted hp ht <;>
      rw [hss] <;> rfl

end Sys2Proof.Machine
